-- ==== Sys2Proof/Word.lean ====
section
/-! DEFINITION. The words of the TFIO engine (00_scope.md R9): bit 0 is the least significant bit, every value is
unsigned, `+` and `-` on an n-bit field wrap modulo 2^n. -/

namespace Sys2Proof

/-- An 8-bit value: a data byte, or a mask whose bit i stands for port pin i (R9). -/
abbrev Byte := BitVec 8

/-- A 32-bit buffer address (20_memory.md R60). -/
abbrev Addr := BitVec 32

/-- A 32-bit response word (30_encoding.md R85). -/
abbrev Resp := BitVec 32

/-- A 64-bit command word CMD64 (30_encoding.md R80). -/
abbrev CmdWord := BitVec 64

/-- A 16-bit stimulus word EVT16 (30_encoding.md R91). -/
abbrev EvtWord := BitVec 16

/-- The 8-bit mask whose bit i is `f i` (R9: a mask is a vector of eight one-bit lanes). -/
def lanes (f : Fin 8 → Bool) : Byte :=
  BitVec.ofBool (f 7) ++ BitVec.ofBool (f 6) ++ BitVec.ofBool (f 5) ++ BitVec.ofBool (f 4) ++
    BitVec.ofBool (f 3) ++ BitVec.ofBool (f 2) ++ BitVec.ofBool (f 1) ++ BitVec.ofBool (f 0)

/-- The number of set bits (R9). -/
def popcount (v : Byte) : Nat :=
  ((List.finRange 8).filter fun i => v[i]).length

end Sys2Proof
end

