-- ==== Sys2Proof/Config.lean ====
section
/-! DEFINITION. The implementation parameters `Cfg` (00_scope.md R6) and the launch levels (R7). They are data, so that
every statement can range over all of them. The spec leaves no value of an executed instruction open, so there is no
opaque constant here. -/

namespace Sys2Proof

/-- Which pin transition arms a debounce (R6, parameter EDGE). -/
inductive Edge where
  | falling
  | both
deriving DecidableEq, Repr

/-- How `vote < W/4` is evaluated (R6, parameter VOTE_CMP; 41_debounce.md R144). -/
inductive VoteCmp where
  | exact
  | floor
deriving DecidableEq, Repr

/-- The configuration record of R6. Fields are naturals where R6 gives a range, so that a value outside the range can be
written down and refused (R8). -/
structure Cfg where
  /-- W, the debounce window length in ticks -/
  window : Nat
  /-- T_ms, the tick period in milliseconds; no rule reads it -/
  tMs : Nat
  /-- BTN_MASK, the button pins of the port -/
  btnMask : Byte
  /-- EDGE -/
  edge : Edge
  /-- VOTE_CMP -/
  voteCmp : VoteCmp
  /-- BTNQ_CAP -/
  btnqCap : Nat
  /-- RXQ_CAP -/
  rxqCap : Nat
  /-- BAUD in bit/s; no rule reads it -/
  baud : Nat
  /-- I2C_RATE in bit/s; no rule reads it -/
  i2cRate : Nat
  /-- TX_TMO_MS_PER_BYTE, the host's own transmit wait bound; no rule of the block reads it (60_exceptions.md R321) -/
  txTmoMsPerByte : Nat
deriving DecidableEq, Repr

/-- The defaults of R6. -/
def Cfg.default : Cfg where
  window := 25
  tMs := 4
  btnMask := 0x11
  edge := .falling
  voteCmp := .exact
  btnqCap := 8
  rxqCap := 8
  baud := 115200
  i2cRate := 100000
  txTmoMsPerByte := 20

/-- NBTN, the number of button pins (R8). -/
def Cfg.nbtn (c : Cfg) : Nat := popcount c.btnMask

/-- The line levels the environment presents at launch (R7). -/
structure LaunchLevels where
  pins0 : Byte
  rxd0 : Bool
  sclExt0 : Bool
  sdaExt0 : Bool
deriving DecidableEq, Repr

/-- The defaults of R7: buttons released, lines idle. -/
def LaunchLevels.default : LaunchLevels where
  pins0 := 0xFF
  rxd0 := true
  sclExt0 := true
  sdaExt0 := true

end Sys2Proof
end

