-- ==== Sys2Proof/Syntax.lean ====
section
/-! DEFINITION. The instructions: one constructor of `Instr` for each row of spec/opcode_table.json, the 13 host commands
of 30_encoding.md R82 and the 8 stimuli of R91. `Command` is the same 13 commands as a type of their own, which the CMD
handler dispatches on (40_handoff.md R111). `TraceItem` is what the outside world feeds the block. -/

namespace Sys2Proof

/-- The 13 host commands of R82, operands in the assembler's order (R98). -/
inductive Command where
  | nop
  | status
  | xstatus
  /-- `pin` is X[2:0]; X[7:3] must be 0 (R83) -/
  | debPeek (pin : BitVec 3)
  /-- `mask` is X; X[6:5] must be 0 (R83) -/
  | irqEn (mask : Byte)
  /-- `mask` is X; X[6:5] must be 0 (R83) -/
  | irqClr (mask : Byte)
  /-- `half` is X[0]; X[7:1] must be 0 (R83) -/
  | faultInfo (half : BitVec 1)
  | btnPop
  | uartTx (ptr : Addr) (len : BitVec 16)
  | uartRxPop
  /-- `msa` is X, the whole MSA byte: address in [7:1], R/S in [0] (43_i2c.md R232) -/
  | i2cSetsa (msa : Byte)
  | i2cWrite (ctrl : Byte) (ptr : Addr) (len : BitVec 16)
  | i2cWriteOne (byte : Byte)
deriving DecidableEq, Repr

/-- One constructor per row of the opcode table. -/
inductive Instr where
  | nop
  | status
  | xstatus
  | debPeek (pin : BitVec 3)
  | irqEn (mask : Byte)
  | irqClr (mask : Byte)
  | faultInfo (half : BitVec 1)
  | btnPop
  | uartTx (ptr : Addr) (len : BitVec 16)
  | uartRxPop
  | i2cSetsa (msa : Byte)
  | i2cWrite (ctrl : Byte) (ptr : Addr) (len : BitVec 16)
  | i2cWriteOne (byte : Byte)
  /-- PINS(v): the port pins change level -/
  | evtPins (v : Byte)
  /-- TICK: the debounce sampling strobe -/
  | evtTick
  /-- BAUD16: the UART strobe -/
  | evtBaud16
  /-- RXD(b): the receive line changes -/
  | evtRxd (b : Bool)
  /-- I2CQ: the I2C quarter-period strobe -/
  | evtI2cq
  /-- BUSEXT(c, d): what all other devices drive on SCL and SDA -/
  | evtBusext (c d : Bool)
  | evtReset
  /-- CMD(w): any 64-bit word at the command port, legal or not -/
  | evtCmd (w : CmdWord)
deriving DecidableEq, Repr

/-- A command as an instruction. -/
def Command.toInstr : Command → Instr
  | .nop => .nop
  | .status => .status
  | .xstatus => .xstatus
  | .debPeek p => .debPeek p
  | .irqEn m => .irqEn m
  | .irqClr m => .irqClr m
  | .faultInfo h => .faultInfo h
  | .btnPop => .btnPop
  | .uartTx p n => .uartTx p n
  | .uartRxPop => .uartRxPop
  | .i2cSetsa m => .i2cSetsa m
  | .i2cWrite c p n => .i2cWrite c p n
  | .i2cWriteOne b => .i2cWriteOne b

/-- The command an instruction is, if it is one. -/
def Instr.command? : Instr → Option Command
  | .nop => some .nop
  | .status => some .status
  | .xstatus => some .xstatus
  | .debPeek p => some (.debPeek p)
  | .irqEn m => some (.irqEn m)
  | .irqClr m => some (.irqClr m)
  | .faultInfo h => some (.faultInfo h)
  | .btnPop => some .btnPop
  | .uartTx p n => some (.uartTx p n)
  | .uartRxPop => some .uartRxPop
  | .i2cSetsa m => some (.i2cSetsa m)
  | .i2cWrite c p n => some (.i2cWrite c p n)
  | .i2cWriteOne b => some (.i2cWriteOne b)
  | .evtPins _ => none
  | .evtTick => none
  | .evtBaud16 => none
  | .evtRxd _ => none
  | .evtI2cq => none
  | .evtBusext _ _ => none
  | .evtReset => none
  | .evtCmd _ => none

/-- The four MCS commands the I2C cursor engine generates (30_encoding.md R96). -/
inductive McsCommand where
  | startRun
  | startRunStop
  | run
  | runStop
deriving DecidableEq, Repr

/-- One item of the input the outside world feeds the block. R91's trace is `half` words, with the 64-bit word of a CMD
after its `half 0x0800`. A `command` word that stands alone is the same CMD(w) given at the command port itself (R80,
R110). `hostWrite` is the host storing a byte of its own memory between two stimuli (20_memory.md R66); it is no stimulus
of the block.
DESIGN CHOICE (log entries 1, 2 and 5): the list is the model's way to take input. -/
inductive TraceItem where
  | half (h : EvtWord)
  | command (w : CmdWord)
  | hostWrite (a : Addr) (b : Byte)
deriving DecidableEq, Repr

end Sys2Proof
end

