-- ==== Sys2Proof/WellFormed.lean ====
section
/-! DEFINITION. Well-formedness: of a configuration (00_scope.md R8, ranges of R6) and of an instruction (the must-be-0
fields of 30_encoding.md R83 that the operand types do not already exclude). -/

namespace Sys2Proof

/-- R8: every field of `Cfg` within the legal range of R6. -/
def Cfg.wf (c : Cfg) : Bool :=
  1 ≤ c.window && c.window ≤ 255 && 0 < c.tMs && c.btnMask != 0#8 &&
    1 ≤ c.btnqCap && c.btnqCap ≤ 15 && 1 ≤ c.rxqCap && c.rxqCap ≤ 15 &&
    0 < c.baud && 0 < c.i2cRate && 0 < c.txTmoMsPerByte

/-- X[6:5] = 0, the reserved field of IRQ_EN and IRQ_CLR (R83). -/
def irqMaskOk (mask : Byte) : Bool := mask &&& 0x60#8 == 0#8

/-- A command whose must-be-0 fields are 0 (R83). -/
def Command.wf : Command → Bool
  | .nop => true
  | .status => true
  | .xstatus => true
  | .debPeek _ => true
  | .irqEn m => irqMaskOk m
  | .irqClr m => irqMaskOk m
  | .faultInfo _ => true
  | .btnPop => true
  | .uartTx _ _ => true
  | .uartRxPop => true
  | .i2cSetsa _ => true
  | .i2cWrite _ _ _ => true
  | .i2cWriteOne _ => true

/-- An instruction whose must-be-0 fields are 0. -/
def Instr.wf (i : Instr) : Bool :=
  match i.command? with
  | some c => c.wf
  | none => true

end Sys2Proof
end

