-- ==== Sys2Proof/Decode.lean ====
section
/-! DEFINITION. The decoders of 30_encoding.md: the command word (R84), the stimulus word (R91, R92), the internal MCS
command (R96) and a trace; all total, refusing by name. After them the encoders. -/

namespace Sys2Proof

/-! ## Fields -/

/-- `w[63:56]`, OP (R80). -/
def cmdOp (w : CmdWord) : Byte := w.extractLsb' 56 8

/-- `w[55:48]`, X (R80). -/
def cmdX (w : CmdWord) : Byte := w.extractLsb' 48 8

/-- `w[47:32]`, N (R80). -/
def cmdN (w : CmdWord) : BitVec 16 := w.extractLsb' 32 16

/-- `w[31:0]`, P (R80). -/
def cmdP (w : CmdWord) : Addr := w.extractLsb' 0 32

/-- `[15:8]`, the tag of a stimulus word (R91). -/
def evtTag (h : EvtWord) : Byte := h.extractLsb' 8 8

/-- `[7:0]`, the payload of a stimulus word (R91). -/
def evtPayload (h : EvtWord) : Byte := h.extractLsb' 0 8

/-! ## The command word -/

/-- The three answers of R84's decoder. -/
inductive CmdDecode where
  /-- no row has this opcode: Fault(ILLEGAL_OPCODE) -/
  | illegal (op : Byte)
  /-- a must-be-0 bit of the row is 1: Fault(RSVD_FIELD) -/
  | reserved (op : Byte)
  | cmd (c : Command)
deriving DecidableEq, Repr

/-- The reserved-field check of R84 for the row whose mask is `mask`: `match_r` is `OP << 56` (R83). -/
def checkRow (w mask : CmdWord) (c : Command) : CmdDecode :=
  if w &&& mask = cmdOp w ++ 0#56 then .cmd c else .reserved (cmdOp w)

/-- R84: opcode first, then reserved fields. The masks are those of R83. -/
def decodeCmd64 (w : CmdWord) : CmdDecode :=
  if cmdOp w = 0x00#8 then checkRow w 0xFFFFFFFFFFFFFFFF#64 .nop
  else if cmdOp w = 0x01#8 then checkRow w 0xFFFFFFFFFFFFFFFF#64 .status
  else if cmdOp w = 0x02#8 then checkRow w 0xFFFFFFFFFFFFFFFF#64 .xstatus
  else if cmdOp w = 0x03#8 then checkRow w 0xFFF8FFFFFFFFFFFF#64 (.debPeek ((cmdX w).extractLsb' 0 3))
  else if cmdOp w = 0x04#8 then checkRow w 0xFF60FFFFFFFFFFFF#64 (.irqEn (cmdX w))
  else if cmdOp w = 0x05#8 then checkRow w 0xFF60FFFFFFFFFFFF#64 (.irqClr (cmdX w))
  else if cmdOp w = 0x06#8 then checkRow w 0xFFFEFFFFFFFFFFFF#64 (.faultInfo ((cmdX w).extractLsb' 0 1))
  else if cmdOp w = 0x10#8 then checkRow w 0xFFFFFFFFFFFFFFFF#64 .btnPop
  else if cmdOp w = 0x20#8 then checkRow w 0xFFFF000000000000#64 (.uartTx (cmdP w) (cmdN w))
  else if cmdOp w = 0x21#8 then checkRow w 0xFFFFFFFFFFFFFFFF#64 .uartRxPop
  else if cmdOp w = 0x30#8 then checkRow w 0xFF00FFFFFFFFFFFF#64 (.i2cSetsa (cmdX w))
  else if cmdOp w = 0x31#8 then checkRow w 0xFF00000000000000#64 (.i2cWrite (cmdX w) (cmdP w) (cmdN w))
  else if cmdOp w = 0x32#8 then checkRow w 0xFF00FFFFFFFFFFFF#64 (.i2cWriteOne (cmdX w))
  else .illegal (cmdOp w)

/-! ## The stimulus word -/

/-- What an EVT16 word spells. -/
inductive EvtDecode where
  | event (i : Instr)
  /-- tag 0x08: the next 64 bits of the trace are the command word -/
  | cmdHeader
  /-- R92: no stimulus has this tag -/
  | badTag (tag : Byte)
  /-- R92: a payload bit that R91 marks 0 is 1 -/
  | badPayload (tag payload : Byte)
deriving DecidableEq, Repr

/-- `d` if no bit of `mustBeZero` is set in the payload, else a refusal (R92). -/
def checkPayload (h : EvtWord) (mustBeZero : Byte) (d : EvtDecode) : EvtDecode :=
  if evtPayload h &&& mustBeZero = 0#8 then d else .badPayload (evtTag h) (evtPayload h)

/-- R91, R92. -/
def decodeEvt16 (h : EvtWord) : EvtDecode :=
  if evtTag h = 0x01#8 then .event (.evtPins (evtPayload h))
  else if evtTag h = 0x02#8 then checkPayload h 0xFF#8 (.event .evtTick)
  else if evtTag h = 0x03#8 then checkPayload h 0xFF#8 (.event .evtBaud16)
  else if evtTag h = 0x04#8 then checkPayload h 0xFE#8 (.event (.evtRxd (evtPayload h)[0]))
  else if evtTag h = 0x05#8 then checkPayload h 0xFF#8 (.event .evtI2cq)
  else if evtTag h = 0x06#8 then checkPayload h 0xFC#8 (.event (.evtBusext (evtPayload h)[0] (evtPayload h)[1]))
  else if evtTag h = 0x07#8 then checkPayload h 0xFF#8 (.event .evtReset)
  else if evtTag h = 0x08#8 then checkPayload h 0xFF#8 .cmdHeader
  else .badTag (evtTag h)

/-! ## The internal MCS command -/

/-- R96: the four values; any other is refused by name. -/
def decodeMcs (v : BitVec 5) : Except String McsCommand :=
  if v = 0x03#5 then .ok .startRun
  else if v = 0x07#5 then .ok .startRunStop
  else if v = 0x01#5 then .ok .run
  else if v = 0x05#5 then .ok .runStop
  else .error "MCS command value not in 0x01, 0x03, 0x05, 0x07"

/-! ## A trace -/

/-- The instruction a command word at the port stands for: the command it decodes to, or CMD(w) itself, whose handler
raises the decoder's fault (R84). -/
def portInstr (w : CmdWord) : Instr :=
  match decodeCmd64 w with
  | .cmd c => c.toInstr
  | .illegal _ => .evtCmd w
  | .reserved _ => .evtCmd w

/-- Why a trace decoder refuses (R92). -/
inductive TraceError where
  | badTag (tag : Byte)
  | badPayload (tag payload : Byte)
  /-- a CMD stimulus word that no 64-bit word follows (log entry 13) -/
  | truncatedCmd
deriving DecidableEq, Repr

/-- What stands first in the input. `used` is how many items it takes. -/
inductive Fetched where
  | idle
  | hostWrite (a : Addr) (b : Byte) (rest : List TraceItem)
  | run (i : Instr) (rest : List TraceItem) (used : Nat)
  | refused (e : TraceError)
deriving DecidableEq, Repr

/-- Read the next item of the input (R91, R92). -/
def readTrace : List TraceItem → Fetched
  | [] => .idle
  | .hostWrite a b :: rest => .hostWrite a b rest
  | .command w :: rest => .run (portInstr w) rest 1
  | .half h :: rest =>
    match decodeEvt16 h with
    | .event i => .run i rest 1
    | .badTag t => .refused (.badTag t)
    | .badPayload t p => .refused (.badPayload t p)
    | .cmdHeader =>
      match rest with
      | .command w :: rest' => .run (.evtCmd w) rest' 2
      | _ => .refused .truncatedCmd

/-- The trace items of an opcode-table row's word: a CMD64 row has 64 bits, any other is an EVT16 word, after which the
64-bit word of a CMD follows (its bits count on from bit 16). -/
def tableItems (nbits w : Nat) : List TraceItem :=
  if nbits = 64 then [.command (BitVec.ofNat 64 w)]
  else
    match decodeEvt16 (BitVec.ofNat 16 w) with
    | .cmdHeader => [.half (BitVec.ofNat 16 w), .command (BitVec.ofNat 64 (w >>> 16))]
    | _ => [.half (BitVec.ofNat 16 w)]

/-- The instruction the decoder reads from an opcode-table row's word. -/
def decodeTableWord (nbits w : Nat) : Option Instr :=
  if nbits = 64 then
    match decodeCmd64 (BitVec.ofNat 64 w) with
    | .cmd c => some c.toInstr
    | .illegal _ => none
    | .reserved _ => none
  else
    match readTrace (tableItems nbits w) with
    | .run i [] _ => some i
    | _ => none

/-! ## Encoders -/

/-- `{OP, X, N, P}` (R80). -/
def packCmd (op x : Byte) (n : BitVec 16) (p : Addr) : CmdWord := op ++ x ++ n ++ p

/-- The word of a command (R82). -/
def Command.word : Command → CmdWord
  | .nop => packCmd 0x00#8 0#8 0#16 0#32
  | .status => packCmd 0x01#8 0#8 0#16 0#32
  | .xstatus => packCmd 0x02#8 0#8 0#16 0#32
  | .debPeek pin => packCmd 0x03#8 (0#5 ++ pin) 0#16 0#32
  | .irqEn m => packCmd 0x04#8 m 0#16 0#32
  | .irqClr m => packCmd 0x05#8 m 0#16 0#32
  | .faultInfo half => packCmd 0x06#8 (0#7 ++ half) 0#16 0#32
  | .btnPop => packCmd 0x10#8 0#8 0#16 0#32
  | .uartTx p n => packCmd 0x20#8 0#8 n p
  | .uartRxPop => packCmd 0x21#8 0#8 0#16 0#32
  | .i2cSetsa m => packCmd 0x30#8 m 0#16 0#32
  | .i2cWrite c p n => packCmd 0x31#8 c n p
  | .i2cWriteOne b => packCmd 0x32#8 b 0#16 0#32

/-- `{tag, payload}` (R91). -/
def packEvt (tag payload : Byte) : EvtWord := tag ++ payload

/-- The input that spells an instruction: one CMD64 word, one EVT16 word, or for CMD(w) the EVT16 word and then w. -/
def encode : Instr → List TraceItem
  | .nop => [.command Command.nop.word]
  | .status => [.command Command.status.word]
  | .xstatus => [.command Command.xstatus.word]
  | .debPeek p => [.command (Command.debPeek p).word]
  | .irqEn m => [.command (Command.irqEn m).word]
  | .irqClr m => [.command (Command.irqClr m).word]
  | .faultInfo h => [.command (Command.faultInfo h).word]
  | .btnPop => [.command Command.btnPop.word]
  | .uartTx p n => [.command (Command.uartTx p n).word]
  | .uartRxPop => [.command Command.uartRxPop.word]
  | .i2cSetsa m => [.command (Command.i2cSetsa m).word]
  | .i2cWrite c p n => [.command (Command.i2cWrite c p n).word]
  | .i2cWriteOne b => [.command (Command.i2cWriteOne b).word]
  | .evtPins v => [.half (packEvt 0x01#8 v)]
  | .evtTick => [.half (packEvt 0x02#8 0#8)]
  | .evtBaud16 => [.half (packEvt 0x03#8 0#8)]
  | .evtRxd b => [.half (packEvt 0x04#8 (0#7 ++ BitVec.ofBool b))]
  | .evtI2cq => [.half (packEvt 0x05#8 0#8)]
  | .evtBusext c d => [.half (packEvt 0x06#8 (0#6 ++ BitVec.ofBool d ++ BitVec.ofBool c))]
  | .evtReset => [.half (packEvt 0x07#8 0#8)]
  | .evtCmd w => [.half (packEvt 0x08#8 0#8), .command w]

/-- The 5 bits of an MCS command: RUN bit 0, START bit 1, STOP bit 2 (R96). -/
def McsCommand.bits : McsCommand → BitVec 5
  | .startRun => 0x03#5
  | .startRunStop => 0x07#5
  | .run => 0x01#5
  | .runStop => 0x05#5

end Sys2Proof
end

