-- ==== Sys2Proof/Machine/State.lean ====
section
/-! DEFINITION. The state of the TFIO engine (10_state.md R22-R41), the machine after reset (R49), and the reasons a step
of the model can stop. The block's own state is `hof`, `deb`, `tx`, `rx`, `i2c`, `inp`; `cfg` and `mem` are the arguments
R6 and R61 give a model; `resp` is the response word of R85; the last three fields are the model's own. -/

namespace Sys2Proof.Machine

/-- The nine faults of 60_exceptions.md R301. -/
inductive FaultCode where
  | illegalOpcode
  | rsvdField
  | txBusy
  | txLen0
  | bufWrap
  | i2cBusy
  | i2cRead
  | btnqFull
  | memRead
deriving DecidableEq, Repr

/-- What `raise Fault(code, info)` carries (R301, R303). -/
structure FaultRecord where
  code : FaultCode
  info : BitVec 64
deriving DecidableEq, Repr

/-- A queue (R28, R34). `e` has a place for every index a 4-bit head can hold; only the first CAP (at most 15) exist in
the block, the others stay as reset left them. -/
structure Queue where
  e : Vector Byte 16
  head : BitVec 4
  count : BitVec 4
deriving DecidableEq, Repr

/-- Hand-off, interrupt and fault state (R22, R23). -/
structure Hof where
  halted : Bool
  faultCode : Byte
  faultInfo : BitVec 64
  irqEn : Byte
  irqLat : Byte
deriving DecidableEq, Repr

/-- Debounce state (R25, R26, R28). -/
structure Deb where
  edgePend : Byte
  rem : Vector Byte 8
  vote : Vector Byte 8
  btnq : Queue
deriving DecidableEq, Repr

/-- UART transmit half (R29, R30, R31). -/
structure UartTx where
  txBusy : Bool
  txCur : Addr
  txEnd : Addr
  thr : Byte
  thrFull : Bool
  tsr : Byte
  txAct : Bool
  txBit : BitVec 4
  txPre : BitVec 4
  txd : Bool
deriving DecidableEq, Repr

/-- The states of the receive bit machine (R33). -/
inductive RxState where
  | idle
  | start
  | data
  | stop
deriving DecidableEq, Repr

/-- UART receive half (R32, R33, R34, R35); the line `rxd` itself is an input wire, in `Inputs`. -/
structure UartRx where
  rxPrev : Bool
  rxSt : RxState
  rxCnt : BitVec 4
  rxBit : BitVec 3
  rxSh : Byte
  rxq : Queue
  fe : Bool
  oe : Bool
deriving DecidableEq, Repr

/-- The states of the I2C bit sequencer (R39). -/
inductive SeqState where
  | idle
  | waitbus
  | start
  | xmit
  | ack
  | hold
  | stop
deriving DecidableEq, Repr

/-- The kind of the byte being sent (R39). -/
inductive ByteKind where
  | addr
  | data
deriving DecidableEq, Repr

/-- I2C master state (R36-R41); the lines as other devices drive them are input wires, in `Inputs`. -/
structure I2cm where
  msa : Byte
  i2cBusy : Bool
  i2cCur : Addr
  i2cEnd : Addr
  i2cRes : Bool
  mdr : Byte
  seq : SeqState
  ph : BitVec 2
  bitn : BitVec 3
  sh : Byte
  kind : ByteKind
  pendStop : Bool
  err : Bool
  adrack : Bool
  datack : Bool
  arblst : Bool
  sclDrv : Bool
  sdaDrv : Bool
deriving DecidableEq, Repr

/-- The wires the environment drives (R24, R32, R41, R49). -/
structure Inputs where
  pins : Byte
  rxd : Bool
  sclExt : Bool
  sdaExt : Bool
deriving DecidableEq, Repr

/-- The launch memory MEM (20_memory.md R61): a partial map from addresses to bytes, held as a list. An address that is
not listed is NOT ADMITTED: it has no byte. So no entry can equal what an unlisted address reads as, and the canonical
form is `memWf`. -/
abbrev Memory := List Host.Cell

/-- The canonical form of a memory: addresses strictly rising and within the 32-bit buffer space (20_memory.md R60). -/
abbrev Memory.wf (m : Memory) : Prop :=
  m.Pairwise (fun c d => c.1 < d.1) ∧ ∀ c ∈ m, c.1 < 2 ^ 32

/-- The machine's state. -/
structure State where
  hof : Hof
  deb : Deb
  tx : UartTx
  rx : UartRx
  i2c : I2cm
  inp : Inputs
  /-- the parameters of R6; nothing writes them -/
  cfg : Cfg
  /-- MEM (R61); only the host writes it (R64, R66) -/
  mem : Memory
  /-- the response word of the last command (R85) -/
  resp : Resp
  /-- MODEL's own (log entry 1): the input not yet consumed -/
  pending : List TraceItem
  /-- MODEL's own (log entry 1): how many items were consumed -/
  position : Nat
  /-- MODEL's own (log entry 9): every fault since launch, the latest first (60_exceptions.md R305) -/
  faultLog : List FaultRecord
deriving DecidableEq, Repr

/-- Faults that end a run of the model: NONE. Every fault of the spec halts the block (60_exceptions.md R303) and the
halted block is a state that steps on (R305: "a faulted state is not a final state"), so each is a `next` state. The type
is empty, which is safe: no step can end in a fault. -/
inductive Fault : Type
deriving DecidableEq, Repr

/-- Why a step of the model answers no next state. -/
inductive Refusal where
  /-- raised by an arm of `exec` whose instruction has no meaning yet: none is left; safe -/
  | notModelled (mnemonic : String)
  /-- raised by `step` on a configuration outside its legal ranges (00_scope.md R8: "A model refuses a configuration");
  safe: such a block does not exist -/
  | illegalConfig
  /-- raised by `step` on an input word that spells no stimulus (30_encoding.md R92: refused "by name and position"; "It
  never reaches the block"); safe -/
  | badTrace (position : Nat) (why : TraceError)
deriving DecidableEq, Repr

/-! ## Reset values -/

/-- Entries are "unspecified" in the spec (R28, R34), which suggests 0 (R49). DESIGN CHOICE: 0 (log entry 7). -/
def Queue.reset : Queue where
  e := Vector.replicate 16 0#8
  head := 0#4
  count := 0#4

def Hof.reset : Hof where
  halted := false
  faultCode := 0x00#8
  faultInfo := 0#64
  irqEn := 0x00#8
  irqLat := 0x00#8

def Deb.reset : Deb where
  edgePend := 0x00#8
  rem := Vector.replicate 8 0#8
  vote := Vector.replicate 8 0#8
  btnq := Queue.reset

def UartTx.reset : UartTx where
  txBusy := false
  txCur := 0#32
  txEnd := 0#32
  thr := 0x00#8
  thrFull := false
  tsr := 0x00#8
  txAct := false
  txBit := 0#4
  txPre := 0#4
  txd := true

/-- `rx_prev` takes the level of the line after reset (R32). -/
def UartRx.reset (rxd : Bool) : UartRx where
  rxPrev := rxd
  rxSt := .idle
  rxCnt := 0#4
  rxBit := 0#3
  rxSh := 0x00#8
  rxq := Queue.reset
  fe := false
  oe := false

def I2cm.reset : I2cm where
  msa := 0x00#8
  i2cBusy := false
  i2cCur := 0#32
  i2cEnd := 0#32
  i2cRes := false
  mdr := 0x00#8
  seq := .idle
  ph := 0#2
  bitn := 7#3
  sh := 0x00#8
  kind := .addr
  pendStop := false
  err := false
  adrack := false
  datack := false
  arblst := false
  sclDrv := true
  sdaDrv := true

/-- The launch state (70_reset_and_hazards.md R340: "the state after a RESET, with the inputs equal to the launch
parameters"), for every configuration, every launch level and every launch memory (R7).
DESIGN CHOICE (log entry 6): the response word before the first command is 0. -/
def State.launch (cfg : Cfg) (l : LaunchLevels) (mem : Memory) : State where
  hof := Hof.reset
  deb := Deb.reset
  tx := UartTx.reset
  rx := UartRx.reset l.rxd0
  i2c := I2cm.reset
  inp := { pins := l.pins0, rxd := l.rxd0, sclExt := l.sclExt0, sdaExt := l.sdaExt0 }
  cfg := cfg
  mem := mem
  resp := 0#32
  pending := []
  position := 0
  faultLog := []

/-- The machine right after reset, with the default parameters of R6 and R7.
DESIGN CHOICE (log entry 4): no address is admitted. -/
def State.reset : State := State.launch Cfg.default LaunchLevels.default []

end Sys2Proof.Machine
end

