-- ==== Sys2Proof/Machine/Ops.lean ====
section
/-! DEFINITION. The operations every meaning is made of: field updates, the response word, memory, the queues, taking a
fault and leaving the halted state, and the halt gate around a handler (00_scope.md R11, R12; 60_exceptions.md R302, R303). -/

namespace Sys2Proof.Machine

/-! ## Updates of one part of the state -/

/-- `respond(v)` (R12). -/
def State.respond (s : State) (v : Resp) : State := { s with resp := v }

def State.setHof (s : State) (h : Hof) : State := { s with hof := h }

def State.setDeb (s : State) (d : Deb) : State := { s with deb := d }

def State.setTx (s : State) (t : UartTx) : State := { s with tx := t }

def State.setRx (s : State) (r : UartRx) : State := { s with rx := r }

def State.setI2c (s : State) (m : I2cm) : State := { s with i2c := m }

def State.setInp (s : State) (i : Inputs) : State := { s with inp := i }

def State.setMem (s : State) (m : Memory) : State := { s with mem := m }

/-- `used` items of the input are consumed and `rest` is left. -/
def State.consume (s : State) (rest : List TraceItem) (used : Nat) : State :=
  { s with pending := rest, position := s.position + used }

/-! ## Memory -/

/-- The byte at an address, if MEM admits it (20_memory.md R61). -/
def memGet : Memory → Nat → Option Byte
  | [], _ => none
  | (k, b) :: m, a => if k = a then some b else memGet m a

/-- Store a byte, keeping the addresses rising. -/
def memPut : Memory → Nat → Byte → Memory
  | [], a, b => [(a, b)]
  | (k, c) :: m, a, b =>
    if a < k then (a, b) :: (k, c) :: m
    else if a = k then (a, b) :: m
    else (k, c) :: memPut m a b

/-- `MemRead(a, 1)` (20_memory.md R62). -/
def memRead (m : Memory) (a : Addr) : Except FaultRecord Byte :=
  match memGet m a.toNat with
  | some b => .ok b
  | none => .error { code := .memRead, info := a.setWidth 64 }

/-- The host stores a byte between two stimuli (20_memory.md R66, 70_reset_and_hazards.md R350). DEDUCED (log entry 5):
an address MEM does not admit stays so. -/
def hostWrite (s : State) (a : Addr) (b : Byte) : State :=
  match memGet s.mem a.toNat with
  | some _ => s.setMem (memPut s.mem a.toNat b)
  | none => s

/-! ## Queues -/

/-- `Enq(Q, v)` (10_state.md R28). DEDUCED (log entry 8): the index `head + count` is exact, as FIFO order needs. -/
def enq (cap : Nat) (q : Queue) (v : Byte) : Queue :=
  { q with
    e := q.e.setIfInBounds ((q.head.toNat + q.count.toNat) % cap) v
    count := q.count + 1#4 }

/-- The byte `Deq(Q)` returns (R28). -/
def deqByte (q : Queue) : Byte := q.e[q.head.toNat]

/-- The queue `Deq(Q)` leaves (R28). -/
def deqRest (cap : Nat) (q : Queue) : Queue :=
  { q with
    head := BitVec.ofNat 4 ((q.head.toNat + 1) % cap)
    count := q.count - 1#4 }

/-- The queue holds its capacity. -/
def queueFull (cap : Nat) (q : Queue) : Bool := q.count.toNat == cap

/-- What a pop command answers: `{23'b0, valid, data}` (30_encoding.md R85). -/
def popResp (q : Queue) : Resp :=
  if q.count = 0#4 then 0#32 else 0#23 ++ 1#1 ++ deqByte q

/-- What a pop command leaves. -/
def popRest (cap : Nat) (q : Queue) : Queue :=
  if q.count = 0#4 then q else deqRest cap q

/-- The entries from head to tail, in delivery order (R28: FIFO). -/
def queueList (cap : Nat) (q : Queue) : List Byte :=
  (List.range q.count.toNat).map fun i => q.e[(q.head.toNat + i) % cap]?.getD 0

/-! ## Taking a fault, and the way back -/

/-- The code stored in `fault_code` (60_exceptions.md R301). -/
def FaultCode.bits : FaultCode → Byte
  | .illegalOpcode => 0x01#8
  | .rsvdField => 0x02#8
  | .txBusy => 0x03#8
  | .txLen0 => 0x04#8
  | .bufWrap => 0x05#8
  | .i2cBusy => 0x06#8
  | .i2cRead => 0x07#8
  | .btnqFull => 0x08#8
  | .memRead => 0x09#8

/-- RESP_HALTED (30_encoding.md R85). -/
def respHalted : Resp := 0x80000000#32

/-- Fault entry (R303). `s0` is the state the handler started in: every write of the handler is discarded, the fault is
recorded, and the block is halted. The record also goes into the history that RESET keeps (R305). -/
def takeFault (s0 : State) (f : FaultRecord) : State :=
  { s0 with
    hof := { s0.hof with halted := true, faultCode := f.code.bits, faultInfo := f.info }
    faultLog := f :: s0.faultLog }

/-- RESET (70_reset_and_hazards.md R340), the only way out of the halted state (60_exceptions.md R305). The input wires,
Cfg and MEM are kept, and so is what is no block state: the response word, the input and the fault history (log entry 6). -/
def resetBlock (s : State) : State :=
  { s with
    hof := Hof.reset
    deb := Deb.reset
    tx := UartTx.reset
    rx := UartRx.reset s.inp.rxd
    i2c := I2cm.reset }

/-! ## The halt gate around a handler -/

/-- A stimulus that is no command: halted, it leaves `frozen` (R302); else its handler runs, and a fault it raises
discards what it wrote (R11, R303). -/
def onStimulus (s frozen : State) (handler : Except FaultRecord State) : State :=
  if s.hof.halted then frozen
  else
    match handler with
    | .ok t => t
    | .error f => takeFault s f

/-- A command other than STATUS, XSTATUS and FAULT_INFO: halted, or faulting, it answers RESP_HALTED (R302, R303). -/
def onCommand (s : State) (handler : Except FaultRecord State) : State :=
  if s.hof.halted then s.respond respHalted
  else
    match handler with
    | .ok t => t
    | .error f => (takeFault s f).respond respHalted

end Sys2Proof.Machine
end

