-- ==== Sys2Proof/Machine/Operands.lean ====
section
/-! DEFINITION. The operand forms: a buffer `[P, P+N)` and its bound (20_memory.md R69), the levels of a UART frame
(30_encoding.md R93), the bit of an I2C byte (R94), and the levels on the open-drain bus (10_state.md R41). -/

namespace Sys2Proof.Machine

/-- The exact `P + N` (33 bits) exceeds 0xFFFF_FFFF (R69). -/
def bufWraps (p : Addr) (n : BitVec 16) : Bool := decide (p.toNat + n.toNat > 0xFFFFFFFF)

/-- `end = P + N` as a 32-bit value (R69). -/
def bufEnd (p : Addr) (n : BitVec 16) : Addr := p + n.setWidth 32

/-- `frame(b)[j]` (R93): start 0, data bits least significant first, stop 1. An index above 9 exists in no state that a
run reaches (10_state.md R48); DESIGN CHOICE (log entry 12): it reads 1, the idle level. -/
def frameBit (b : Byte) (j : BitVec 4) : Bool :=
  if j = 0#4 then false
  else if j.toNat ≤ 8 then b.getLsbD (j.toNat - 1)
  else true

/-- The bit of the byte in `sh` that the current slot sends: index `bitn`, 7 first (R94; 43_i2c.md R263). -/
def slotBit (m : I2cm) : Bool := m.sh.getLsbD m.bitn.toNat

/-- The level of SCL: the wired-AND of all drivers (R41). -/
def sclLevel (i : Inputs) (m : I2cm) : Bool := m.sclDrv && i.sclExt

/-- The level of SDA (R41). -/
def sdaLevel (i : Inputs) (m : I2cm) : Bool := m.sdaDrv && i.sdaExt

end Sys2Proof.Machine
end

