-- ==== Sys2Proof/Machine/Flags.lean ====
section
/-! DEFINITION. Everything derived from the state: the debounce set (10_state.md R27), the vote decision (41_debounce.md
R144), the interrupt vector and line (40_handoff.md R114), the MCS image (43_i2c.md R270), the response words of the status
commands, and the latched interrupt causes (10_state.md R42). -/

namespace Sys2Proof.Machine

/-! ## Debounce -/

/-- `deb_set`: bit i is 1 iff `rem[i] > 0` (R27). -/
def debSet (d : Deb) : Byte := lanes fun i => d.rem[i] != 0#8

/-- `parked`: no lane is debouncing (R27). -/
def parked (d : Deb) : Bool := debSet d == 0#8

/-- `press_vote(k)` (41_debounce.md R144); `4*k` is exact (R153). -/
def pressVote (c : Cfg) (k : Byte) : Bool :=
  match c.voteCmp with
  | .exact => decide (4 * k.toNat < c.window)
  | .floor => decide (k.toNat < c.window / 4)

/-! ## Interrupts -/

/-- Latch bit 1, TXDONE (R114). -/
def latTxDone : Byte := 0x02#8

/-- Latch bit 3, I2CDONE (R114). -/
def latI2cDone : Byte := 0x08#8

/-- Latch bit 4, RXERR (R114). -/
def latRxErr : Byte := 0x10#8

/-- The three latched causes: bits 1, 3, 4 (40_handoff.md R117). -/
def latAll : Byte := 0x1A#8

/-- Set the latches in `m`. -/
def latch (h : Hof) (m : Byte) : Hof := { h with irqLat := h.irqLat ||| m }

/-- Clear the latches in `m`. -/
def unlatch (h : Hof) (m : Byte) : Hof := { h with irqLat := h.irqLat &&& ~~~m }

/-- Set the latches in `m` if `b`. -/
def latchIf (b : Bool) (h : Hof) (m : Byte) : Hof := if b then latch h m else h

/-- The pending vector (R114): bits 0, 2 and 7 live, bits 1, 3 and 4 latched, bits 5 and 6 zero. -/
def irqPend (s : State) : Byte :=
  BitVec.ofBool s.hof.halted ++ 0#2 ++ BitVec.ofBool (s.hof.irqLat[4]) ++
    BitVec.ofBool (s.hof.irqLat[3]) ++ BitVec.ofBool (s.rx.rxq.count != 0#4) ++
    BitVec.ofBool (s.hof.irqLat[1]) ++ BitVec.ofBool (s.deb.btnq.count != 0#4)

/-- The interrupt output line (R114). -/
def irqLine (s : State) : Bool := irqPend s &&& s.hof.irqEn != 0#8

/-! ## Response words -/

/-- The status word (R113), from bit 31 down. -/
def statusWord (s : State) : Resp :=
  irqPend s ++ s.hof.faultCode ++ BitVec.ofBool s.hof.halted ++ BitVec.ofBool (!parked s.deb) ++
    BitVec.ofBool s.rx.oe ++ BitVec.ofBool s.rx.fe ++ BitVec.ofBool s.i2c.i2cRes ++
    BitVec.ofBool s.i2c.i2cBusy ++ BitVec.ofBool (s.tx.thrFull || s.tx.txAct) ++
    BitVec.ofBool s.tx.txBusy ++ s.rx.rxq.count ++ s.deb.btnq.count

/-- BUSY of the MCS image: a command is in progress (43_i2c.md R270). -/
def mcsBusy : SeqState → Bool
  | .idle => false
  | .waitbus => true
  | .start => true
  | .xmit => true
  | .ack => true
  | .hold => false
  | .stop => true

/-- BUSBSY of the MCS image: this master owns the bus (R270). -/
def mcsBusBusy : SeqState → Bool
  | .idle => false
  | .waitbus => false
  | .start => true
  | .xmit => true
  | .ack => true
  | .hold => true
  | .stop => true

/-- The MCS status image (R270), from bit 7 (CLKTO, always 0) down. -/
def mcsImage (m : I2cm) : Byte :=
  0#1 ++ BitVec.ofBool (mcsBusBusy m.seq) ++ BitVec.ofBool (m.seq == .idle) ++
    BitVec.ofBool m.arblst ++ BitVec.ofBool m.datack ++ BitVec.ofBool m.adrack ++
    BitVec.ofBool m.err ++ BitVec.ofBool (mcsBusy m.seq)

/-- The extended status word (40_handoff.md R115). -/
def xstatusWord (s : State) : Resp :=
  0#8 ++ s.hof.irqEn ++ s.i2c.msa ++ mcsImage s.i2c

/-- One half of `fault_info` (R118). -/
def faultInfoWord (s : State) (half : BitVec 1) : Resp :=
  if half = 0#1 then s.hof.faultInfo.extractLsb' 0 32 else s.hof.faultInfo.extractLsb' 32 32

/-- The counters of one lane (41_debounce.md R152): `{14'b0, deb_set[i], edge_pend[i], vote[i], rem[i]}`. -/
def peekWord (d : Deb) (i : Fin 8) : Resp :=
  0#14 ++ BitVec.ofBool ((debSet d)[i]) ++ BitVec.ofBool (d.edgePend[i]) ++ d.vote[i] ++ d.rem[i]

end Sys2Proof.Machine
end

