-- ==== Sys2Proof/Machine/Debounce.lean ====
section
/-! DEFINITION. The debounce voting engine (41_debounce.md): PINS, TICK, BTN_POP, DEB_PEEK. -/

namespace Sys2Proof.Machine

/-- Take every touched lane into debouncing: `rem = W`, `vote = 0`, latch cleared. This is the wake (R142) and step 5 of
TICK (R143), which the rules write in the same words. -/
def foldTouched (c : Cfg) (d : Deb) : Deb :=
  { d with
    rem := Vector.ofFn fun i => if d.edgePend[i] then BitVec.ofNat 8 c.window else d.rem[i]
    vote := Vector.ofFn fun i => if d.edgePend[i] then 0#8 else d.vote[i]
    edgePend := 0#8 }

/-- The edges that PINS(v) presents (R141): high to low, or any change. -/
def pinEdges (c : Cfg) (old v : Byte) : Byte :=
  match c.edge with
  | .falling => old &&& ~~~v
  | .both => old ^^^ v

/-- The edge latch after PINS(v): only button lanes that are not debouncing capture (R141). -/
def capture (c : Cfg) (old v : Byte) (d : Deb) : Deb :=
  { d with edgePend := d.edgePend ||| (pinEdges c old v &&& c.btnMask &&& ~~~debSet d) }

/-- The debounce state after PINS(v): capture, and wake if the engine was parked (R141). -/
def debPins (c : Cfg) (old v : Byte) (d : Deb) : Deb :=
  if parked d && (capture c old v d).edgePend != 0#8 then foldTouched c (capture c old v d)
  else capture c old v d

/-- PINS(v) (R141). While halted only the wire follows (60_exceptions.md R302). -/
def execEvtPins (v : Byte) (s : State) : Host.Outcome State Fault Refusal :=
  let wire := s.setInp { s.inp with pins := v }
  .next (onStimulus s wire (.ok (wire.setDeb (debPins s.cfg s.inp.pins v s.deb))))

/-- Vote of lane i after steps 1 and 2 of TICK (R143): a debouncing lane whose pin reads 1 counts one more. -/
def tickVote (pins : Byte) (d : Deb) (i : Fin 8) : Byte :=
  if (debSet d)[i] && pins[i] then d.vote[i] + 1#8 else d.vote[i]

/-- Countdown of lane i after step 2 of TICK (R143). -/
def tickRem (d : Deb) (i : Fin 8) : Byte :=
  if (debSet d)[i] then d.rem[i] - 1#8 else d.rem[i]

/-- Lane i finalizes in this TICK (R143, step 2). -/
def tickFin (d : Deb) (i : Fin 8) : Bool := (debSet d)[i] && tickRem d i == 0#8

/-- The mask of the lanes that finalize as pressed in this TICK (R143, step 3). -/
def tickPressed (c : Cfg) (pins : Byte) (d : Deb) : Byte :=
  lanes fun i => tickFin d i && pressVote c (tickVote pins d i)

/-- The lanes after steps 1 to 3 of TICK (R143). -/
def tickLanes (pins : Byte) (d : Deb) : Deb :=
  { d with
    rem := Vector.ofFn fun i => tickRem d i
    vote := Vector.ofFn fun i => if tickFin d i then 0#8 else tickVote pins d i }

/-- TICK on an engine that is not parked (R143). -/
def debTick (c : Cfg) (pins : Byte) (d : Deb) : Except FaultRecord Deb :=
  if tickPressed c pins d = 0#8 then .ok (foldTouched c (tickLanes pins d))
  else if queueFull c.btnqCap d.btnq then
    .error { code := .btnqFull, info := (tickPressed c pins d).setWidth 64 }
  else
    .ok (foldTouched c { tickLanes pins d with btnq := enq c.btnqCap d.btnq (tickPressed c pins d) })

/-- The handler of TICK (R143). -/
def tickHandler (s : State) : Except FaultRecord State :=
  if parked s.deb then .ok s
  else
    match debTick s.cfg s.inp.pins s.deb with
    | .ok d => .ok (s.setDeb d)
    | .error f => .error f

/-- TICK (R143). -/
def execEvtTick (s : State) : Host.Outcome State Fault Refusal :=
  .next (onStimulus s s (tickHandler s))

/-- BTN_POP (R150). -/
def execBtnPop (s : State) : Host.Outcome State Fault Refusal :=
  .next (onCommand s (.ok
    ((s.setDeb { s.deb with btnq := popRest s.cfg.btnqCap s.deb.btnq }).respond (popResp s.deb.btnq))))

/-- DEB_PEEK (R152). -/
def execDebPeek (pin : BitVec 3) (s : State) : Host.Outcome State Fault Refusal :=
  .next (onCommand s (.ok (s.respond (peekWord s.deb pin.toFin))))

end Sys2Proof.Machine
end

