-- ==== Sys2Proof/Machine/Handoff.lean ====
section
/-! DEFINITION. The hand-off commands (40_handoff.md): NOP, STATUS, XSTATUS, IRQ_EN, IRQ_CLR, FAULT_INFO. STATUS, XSTATUS
and FAULT_INFO are answered while halted too (R111). -/

namespace Sys2Proof.Machine

/-- NOP (R112). -/
def execNop (s : State) : Host.Outcome State Fault Refusal :=
  .next (onCommand s (.ok (s.respond 0#32)))

/-- STATUS (R113). -/
def execStatus (s : State) : Host.Outcome State Fault Refusal :=
  .next (s.respond (statusWord s))

/-- XSTATUS (R115). -/
def execXstatus (s : State) : Host.Outcome State Fault Refusal :=
  .next (s.respond (xstatusWord s))

/-- The handler of IRQ_EN (R116). DEDUCED (log entry 10): a mask with a reserved bit set, which no decoded command holds,
raises the RSVD_FIELD that its word raises. -/
def irqEnHandler (mask : Byte) (s : State) : Except FaultRecord State :=
  if irqMaskOk mask then .ok ((s.setHof { s.hof with irqEn := mask }).respond 0#32)
  else .error { code := .rsvdField, info := (Command.irqEn mask).word }

/-- IRQ_EN (R116). -/
def execIrqEn (mask : Byte) (s : State) : Host.Outcome State Fault Refusal :=
  .next (onCommand s (irqEnHandler mask s))

/-- `irq_lat`, `fe` and `oe` after IRQ_CLR (R117): only bits 1, 3 and 4 are latched, and bit 4 clears the error flags. -/
def irqClear (mask : Byte) (s : State) : State :=
  let cleared := s.setHof (unlatch s.hof (mask &&& latAll))
  if mask[4] then cleared.setRx { s.rx with fe := false, oe := false } else cleared

/-- The handler of IRQ_CLR (R117). DEDUCED (log entry 10), as for IRQ_EN. -/
def irqClrHandler (mask : Byte) (s : State) : Except FaultRecord State :=
  if irqMaskOk mask then .ok ((irqClear mask s).respond 0#32)
  else .error { code := .rsvdField, info := (Command.irqClr mask).word }

/-- IRQ_CLR (R117). -/
def execIrqClr (mask : Byte) (s : State) : Host.Outcome State Fault Refusal :=
  .next (onCommand s (irqClrHandler mask s))

/-- FAULT_INFO (R118). -/
def execFaultInfo (half : BitVec 1) (s : State) : Host.Outcome State Fault Refusal :=
  .next (s.respond (faultInfoWord s half))

end Sys2Proof.Machine
end

