-- ==== Sys2Proof/Machine/I2c.lean ====
section
/-! DEFINITION. The I2C master (43_i2c.md): I2C_SETSA, I2C_WRITE, I2C_WRITE_ONE, I2CQ, BUSEXT, the internal event MDONE and
the MCS command. -/

namespace Sys2Proof.Machine

/-! ## The cursor engine -/

/-- `issue(c)`: hand an MCS command to the sequencer (R251); bit 2 is STOP, bit 1 START (30_encoding.md R96). -/
def issue (c : McsCommand) (m : I2cm) : I2cm :=
  if c.bits[1] then
    { m with
      pendStop := c.bits[2]
      err := false
      adrack := false
      datack := false
      arblst := false
      seq := .waitbus
      ph := 0#2 }
  else
    { m with
      pendStop := c.bits[2]
      sh := m.mdr
      kind := .data
      bitn := 7#3
      seq := .xmit
      ph := 0#2 }

/-- MDONE (R250). The flag is true when the transaction completes: I2CDONE is latched. -/
def mdone (mem : Memory) (m : I2cm) : Except FaultRecord (I2cm × Bool) :=
  if m.err || m.i2cCur == m.i2cEnd then .ok ({ m with i2cBusy := false, i2cRes := m.err }, true)
  else
    match memRead mem m.i2cCur with
    | .ok b =>
      .ok (issue (if m.i2cCur + 1#32 = m.i2cEnd then .runStop else .run)
        { m with mdr := b, i2cCur := m.i2cCur + 1#32 }, false)
    | .error f => .error f

/-! ## The commands -/

/-- The handler of I2C_SETSA (R232). -/
def i2cSetsaHandler (msa : Byte) (s : State) : Except FaultRecord State :=
  if s.i2c.i2cBusy then .error { code := .i2cBusy, info := (Command.i2cSetsa msa).word }
  else if msa[0] then .error { code := .i2cRead, info := (Command.i2cSetsa msa).word }
  else .ok ((s.setI2c { s.i2c with msa := msa }).respond 0#32)

/-- I2C_SETSA (R232). -/
def execI2cSetsa (msa : Byte) (s : State) : Host.Outcome State Fault Refusal :=
  .next (onCommand s (i2cSetsaHandler msa s))

/-- An accepted start command (R233, R234): cursor, data byte, busy, done latch, START. -/
def i2cStart (cur stop : Addr) (byte : Byte) (c : McsCommand) (s : State) : State :=
  ((s.setI2c (issue c { s.i2c with i2cCur := cur, i2cEnd := stop, mdr := byte, i2cBusy := true })).setHof
    (unlatch s.hof latI2cDone)).respond 0#32

/-- The handler of I2C_WRITE (R233). -/
def i2cWriteHandler (ctrl : Byte) (p : Addr) (n : BitVec 16) (s : State) : Except FaultRecord State :=
  if s.i2c.i2cBusy then .error { code := .i2cBusy, info := (Command.i2cWrite ctrl p n).word }
  else if bufWraps p n then .error { code := .bufWrap, info := (Command.i2cWrite ctrl p n).word }
  else .ok (i2cStart p (bufEnd p n) ctrl (if n = 0#16 then .startRunStop else .startRun) s)

/-- I2C_WRITE (R233). -/
def execI2cWrite (ctrl : Byte) (p : Addr) (n : BitVec 16) (s : State) : Host.Outcome State Fault Refusal :=
  .next (onCommand s (i2cWriteHandler ctrl p n s))

/-- The handler of I2C_WRITE_ONE (R234). -/
def i2cWriteOneHandler (byte : Byte) (s : State) : Except FaultRecord State :=
  if s.i2c.i2cBusy then .error { code := .i2cBusy, info := (Command.i2cWriteOne byte).word }
  else .ok (i2cStart 0#32 0#32 byte .startRunStop s)

/-- I2C_WRITE_ONE (R234). -/
def execI2cWriteOne (byte : Byte) (s : State) : Host.Outcome State Fault Refusal :=
  .next (onCommand s (i2cWriteOneHandler byte s))

/-! ## The bit sequencer -/

/-- WAITBUS: START as soon as both lines read 1 (R261). -/
def waitbusStep (scl sda : Bool) (m : I2cm) : I2cm :=
  if scl && sda then { m with seq := .start, ph := 0#2 } else m

/-- The START slot (R262). -/
def startStep (m : I2cm) : I2cm :=
  if m.ph = 0#2 then { m with sdaDrv := false, ph := 1#2 }
  else if m.ph = 1#2 then { m with ph := 2#2 }
  else if m.ph = 2#2 then { m with ph := 3#2 }
  else
    { m with
      sclDrv := false
      sh := m.msa &&& 0xFE#8
      kind := .addr
      bitn := 7#3
      seq := .xmit
      ph := 0#2 }

/-- The master leaves the bus on arbitration loss (R264), before MDONE. -/
def arbitrationLost (m : I2cm) : I2cm :=
  { m with
    sclDrv := true
    sdaDrv := true
    err := true
    arblst := true
    seq := .idle
    ph := 0#2 }

/-- XMIT, one bit slot (R263). -/
def xmitStep (mem : Memory) (scl sda : Bool) (m : I2cm) : Except FaultRecord (I2cm × Bool) :=
  if m.ph = 0#2 then .ok ({ m with sdaDrv := slotBit m, ph := 1#2 }, false)
  else if m.ph = 1#2 then .ok ({ m with sclDrv := true, ph := 2#2 }, false)
  else if m.ph = 2#2 then
    if !scl then .ok (m, false)
    else if slotBit m && !sda then mdone mem (arbitrationLost m)
    else .ok ({ m with ph := 3#2 }, false)
  else if m.bitn = 0#3 then .ok ({ m with sclDrv := false, ph := 0#2, seq := .ack }, false)
  else .ok ({ m with sclDrv := false, ph := 0#2, bitn := m.bitn - 1#3 }, false)

/-- A NACK sampled in the ACK slot (R265, phase 2). -/
def nack (m : I2cm) : I2cm :=
  match m.kind with
  | .addr => { m with err := true, adrack := true }
  | .data => { m with err := true, datack := true }

/-- The end of the ACK slot (R265, phase 3). -/
def ackEnd (mem : Memory) (m : I2cm) : Except FaultRecord (I2cm × Bool) :=
  if m.err then .ok ({ m with seq := .stop }, false)
  else if m.kind = .addr then
    .ok ({ m with sh := m.mdr, kind := .data, bitn := 7#3, seq := .xmit }, false)
  else if m.pendStop then .ok ({ m with seq := .stop }, false)
  else mdone mem { m with seq := .hold }

/-- ACK, the ninth clock (R265). -/
def ackStep (mem : Memory) (scl sda : Bool) (m : I2cm) : Except FaultRecord (I2cm × Bool) :=
  if m.ph = 0#2 then .ok ({ m with sdaDrv := true, ph := 1#2 }, false)
  else if m.ph = 1#2 then .ok ({ m with sclDrv := true, ph := 2#2 }, false)
  else if m.ph = 2#2 then
    if !scl then .ok (m, false)
    else if sda then .ok ({ nack m with ph := 3#2 }, false)
    else .ok ({ m with ph := 3#2 }, false)
  else ackEnd mem { m with sclDrv := false, ph := 0#2 }

/-- The STOP slot (R266). -/
def stopStep (mem : Memory) (scl : Bool) (m : I2cm) : Except FaultRecord (I2cm × Bool) :=
  if m.ph = 0#2 then .ok ({ m with sdaDrv := false, ph := 1#2 }, false)
  else if m.ph = 1#2 then .ok ({ m with sclDrv := true, ph := 2#2 }, false)
  else if m.ph = 2#2 then
    if !scl then .ok (m, false) else .ok ({ m with ph := 3#2 }, false)
  else mdone mem { m with sdaDrv := true, seq := .idle, ph := 0#2 }

/-- The sequencer's case (R260); both levels are read at the start of the step. In HOLD nothing happens (R268). -/
def seqStep (mem : Memory) (scl sda : Bool) (m : I2cm) : Except FaultRecord (I2cm × Bool) :=
  match m.seq with
  | .idle => .ok (m, false)
  | .waitbus => .ok (waitbusStep scl sda m, false)
  | .start => .ok (startStep m, false)
  | .xmit => xmitStep mem scl sda m
  | .ack => ackStep mem scl sda m
  | .hold => .ok (m, false)
  | .stop => stopStep mem scl m

/-- The handler of I2CQ (R260). -/
def i2cqHandler (s : State) : Except FaultRecord State :=
  match seqStep s.mem (sclLevel s.inp s.i2c) (sdaLevel s.inp s.i2c) s.i2c with
  | .ok (m, done) => .ok ((s.setI2c m).setHof (latchIf done s.hof latI2cDone))
  | .error f => .error f

/-- I2CQ (R260). -/
def execEvtI2cq (s : State) : Host.Outcome State Fault Refusal :=
  .next (onStimulus s s (i2cqHandler s))

/-- BUSEXT(c, d) (R269); the wires follow while halted too (60_exceptions.md R302). -/
def execEvtBusext (c d : Bool) (s : State) : Host.Outcome State Fault Refusal :=
  let wires := s.setInp { s.inp with sclExt := c, sdaExt := d }
  .next (onStimulus s wires (.ok wires))

end Sys2Proof.Machine
end

