-- ==== Sys2Proof/Machine/Uart.lean ====
section
/-! DEFINITION. The UART (42_uart.md): UART_TX, UART_RX_POP, BAUD16, RXD, and the internal event TXE. The two halves read
nothing of each other (R180). -/

namespace Sys2Proof.Machine

/-! ## Transmit -/

/-- The transmit half after an accepted UART_TX (R181); `b` is the first byte. -/
def txStart (p : Addr) (n : BitVec 16) (b : Byte) (t : UartTx) : UartTx :=
  { t with
    txCur := p
    txEnd := bufEnd p n
    thr := b
    thrFull := true
    txBusy := true }

/-- The handler of UART_TX (R181); the checks in the order of 60_exceptions.md R307. -/
def uartTxHandler (p : Addr) (n : BitVec 16) (s : State) : Except FaultRecord State :=
  if s.tx.txBusy then .error { code := .txBusy, info := (Command.uartTx p n).word }
  else if n = 0#16 then .error { code := .txLen0, info := (Command.uartTx p n).word }
  else if bufWraps p n then .error { code := .bufWrap, info := (Command.uartTx p n).word }
  else
    match memRead s.mem p with
    | .ok b => .ok (((s.setTx (txStart p n b s.tx)).setHof (unlatch s.hof latTxDone)).respond 0#32)
    | .error f => .error f

/-- UART_TX (R181). -/
def execUartTx (p : Addr) (n : BitVec 16) (s : State) : Host.Outcome State Fault Refusal :=
  .next (onCommand s (uartTxHandler p n s))

/-- The first `if` of the transmit step (R186): the shifter moves by one strobe. -/
def txShift (t : UartTx) : UartTx :=
  if t.txAct then
    if t.txPre = 15#4 then
      if t.txBit + 1#4 = 10#4 then
        { t with txPre := 0#4, txBit := 0#4, txAct := false, txd := true }
      else
        { t with txPre := 0#4, txBit := t.txBit + 1#4, txd := frameBit t.tsr (t.txBit + 1#4) }
    else { t with txPre := t.txPre + 1#4 }
  else t

/-- The load of the shifter (R186, second `if`): the start bit begins. -/
def txLoad (t : UartTx) : UartTx :=
  { t with
    tsr := t.thr
    thrFull := false
    txAct := true
    txBit := 0#4
    txPre := 0#4
    txd := false }

/-- TXE (R189). The flag is true when the transfer completes: TXDONE is latched. -/
def txe (m : Memory) (t : UartTx) : Except FaultRecord (UartTx × Bool) :=
  if t.txCur + 1#32 = t.txEnd then .ok ({ t with txCur := t.txCur + 1#32, txBusy := false }, true)
  else
    match memRead m (t.txCur + 1#32) with
    | .ok b => .ok ({ t with txCur := t.txCur + 1#32, thr := b, thrFull := true }, false)
    | .error f => .error f

/-- The transmit step (R186). -/
def txStep (m : Memory) (t : UartTx) : Except FaultRecord (UartTx × Bool) :=
  if !(txShift t).txAct && (txShift t).thrFull then txe m (txLoad (txShift t))
  else .ok (txShift t, false)

/-! ## Receive -/

/-- IDLE: a falling edge between two strobes starts a frame (R196). -/
def rxIdle (rxd : Bool) (r : UartRx) : UartRx :=
  if r.rxPrev && !rxd then { r with rxSt := .start, rxCnt := 0#4 } else r

/-- START: the middle of the start bit (R197). -/
def rxStart (rxd : Bool) (r : UartRx) : UartRx :=
  if r.rxCnt = 7#4 then
    if rxd then { r with rxSt := .idle } else { r with rxSt := .data, rxCnt := 0#4, rxBit := 0#3 }
  else { r with rxCnt := r.rxCnt + 1#4 }

/-- `rx_sh` with bit `i` replaced by the line level (R198). -/
def rxPut (sh : Byte) (i : BitVec 3) (b : Bool) : Byte :=
  lanes fun k => if k = i.toFin then b else sh[k]

/-- DATA: the middle of each data bit, least significant first (R198). -/
def rxData (rxd : Bool) (r : UartRx) : UartRx :=
  if r.rxCnt = 15#4 then
    if r.rxBit = 7#3 then { r with rxCnt := 0#4, rxSh := rxPut r.rxSh r.rxBit rxd, rxSt := .stop }
    else { r with rxCnt := 0#4, rxSh := rxPut r.rxSh r.rxBit rxd, rxBit := r.rxBit + 1#3 }
  else { r with rxCnt := r.rxCnt + 1#4 }

/-- STOP: the middle of the stop bit, and delivery (R199). A byte with a bad stop bit is queued all the same (R201); a full
queue drops the new byte (R202). The flag is true when RXERR is latched. -/
def rxStop (c : Cfg) (rxd : Bool) (r : UartRx) : UartRx × Bool :=
  if r.rxCnt = 15#4 then
    if queueFull c.rxqCap r.rxq then
      ({ r with rxCnt := 0#4, fe := r.fe || !rxd, oe := true, rxSt := .idle }, true)
    else
      ({ r with rxCnt := 0#4, fe := r.fe || !rxd, rxq := enq c.rxqCap r.rxq r.rxSh, rxSt := .idle }, !rxd)
  else ({ r with rxCnt := r.rxCnt + 1#4 }, false)

/-- The receive machine in its state, before `rx_prev` follows the line (R195). -/
def rxMachine (c : Cfg) (rxd : Bool) (r : UartRx) : UartRx × Bool :=
  match r.rxSt with
  | .idle => (rxIdle rxd r, false)
  | .start => (rxStart rxd r, false)
  | .data => (rxData rxd r, false)
  | .stop => rxStop c rxd r

/-- The receive step (R195). -/
def rxStep (c : Cfg) (rxd : Bool) (r : UartRx) : UartRx × Bool :=
  ({ (rxMachine c rxd r).1 with rxPrev := rxd }, (rxMachine c rxd r).2)

/-! ## The stimuli and the pop -/

/-- The handler of BAUD16 (R185): the transmit step, then the receive step. -/
def baudHandler (s : State) : Except FaultRecord State :=
  match txStep s.mem s.tx with
  | .ok (t, done) =>
    let (r, rxErr) := rxStep s.cfg s.inp.rxd s.rx
    .ok (((s.setTx t).setRx r).setHof (latchIf rxErr (latchIf done s.hof latTxDone) latRxErr))
  | .error f => .error f

/-- BAUD16 (R185). -/
def execEvtBaud16 (s : State) : Host.Outcome State Fault Refusal :=
  .next (onStimulus s s (baudHandler s))

/-- RXD(b) (R194); the wire follows while halted too (60_exceptions.md R302). -/
def execEvtRxd (b : Bool) (s : State) : Host.Outcome State Fault Refusal :=
  let wire := s.setInp { s.inp with rxd := b }
  .next (onStimulus s wire (.ok wire))

/-- UART_RX_POP (R205). -/
def execUartRxPop (s : State) : Host.Outcome State Fault Refusal :=
  .next (onCommand s (.ok
    ((s.setRx { s.rx with rxq := popRest s.cfg.rxqCap s.rx.rxq }).respond (popResp s.rx.rxq))))

end Sys2Proof.Machine
end

