-- ==== Sys2Proof/Machine/CommandPort.lean ====
section
/-! DEFINITION. The command port: CMD(w) (40_handoff.md R111), and RESET (70_reset_and_hazards.md R340). -/

namespace Sys2Proof.Machine

/-- The handler of a decoded command (R111, last line). -/
def runCommand (c : Command) (s : State) : Host.Outcome State Fault Refusal :=
  match c with
  | .nop => execNop s
  | .status => execStatus s
  | .xstatus => execXstatus s
  | .debPeek pin => execDebPeek pin s
  | .irqEn mask => execIrqEn mask s
  | .irqClr mask => execIrqClr mask s
  | .faultInfo half => execFaultInfo half s
  | .btnPop => execBtnPop s
  | .uartTx p n => execUartTx p n s
  | .uartRxPop => execUartRxPop s
  | .i2cSetsa msa => execI2cSetsa msa s
  | .i2cWrite ctrl p n => execI2cWrite ctrl p n s
  | .i2cWriteOne b => execI2cWriteOne b s

/-- CMD(w) (R111). A word that decodes to no command raises the decoder's fault, or answers RESP_HALTED on a halted block;
a decoded command runs its handler, whose own gate knows which commands a halted block answers. -/
def execEvtCmd (w : CmdWord) (s : State) : Host.Outcome State Fault Refusal :=
  match decodeCmd64 w with
  | .illegal _ => .next (onCommand s (.error { code := .illegalOpcode, info := w }))
  | .reserved _ => .next (onCommand s (.error { code := .rsvdField, info := w }))
  | .cmd c => runCommand c s

/-- RESET (70_reset_and_hazards.md R340): it runs whether or not the block is halted. -/
def execEvtReset (s : State) : Host.Outcome State Fault Refusal :=
  .next (resetBlock s)

end Sys2Proof.Machine
end

