-- ==== Sys2Proof/Machine/Dispatch.lean ====
section
/-! DEFINITION. One arm per instruction, each one call of its meaning. -/

namespace Sys2Proof.Machine

def exec (i : Instr) (s : State) : Host.Outcome State Fault Refusal :=
  match i with
  | .nop => Sys2Proof.Machine.execNop s
  | .status => Sys2Proof.Machine.execStatus s
  | .xstatus => Sys2Proof.Machine.execXstatus s
  | .debPeek pin => Sys2Proof.Machine.execDebPeek pin s
  | .irqEn mask => Sys2Proof.Machine.execIrqEn mask s
  | .irqClr mask => Sys2Proof.Machine.execIrqClr mask s
  | .faultInfo half => Sys2Proof.Machine.execFaultInfo half s
  | .btnPop => Sys2Proof.Machine.execBtnPop s
  | .uartTx ptr len => Sys2Proof.Machine.execUartTx ptr len s
  | .uartRxPop => Sys2Proof.Machine.execUartRxPop s
  | .i2cSetsa msa => Sys2Proof.Machine.execI2cSetsa msa s
  | .i2cWrite ctrl ptr len => Sys2Proof.Machine.execI2cWrite ctrl ptr len s
  | .i2cWriteOne byte => Sys2Proof.Machine.execI2cWriteOne byte s
  | .evtPins v => Sys2Proof.Machine.execEvtPins v s
  | .evtTick => Sys2Proof.Machine.execEvtTick s
  | .evtBaud16 => Sys2Proof.Machine.execEvtBaud16 s
  | .evtRxd b => Sys2Proof.Machine.execEvtRxd b s
  | .evtI2cq => Sys2Proof.Machine.execEvtI2cq s
  | .evtBusext c d => Sys2Proof.Machine.execEvtBusext c d s
  | .evtReset => Sys2Proof.Machine.execEvtReset s
  | .evtCmd w => Sys2Proof.Machine.execEvtCmd w s

end Sys2Proof.Machine
end

