-- ==== Sys2Proof/Machine/Fetch.lean ====
section
/-! DEFINITION. Taking the next item of the input. The block has no program counter and fetches nothing (10_state.md R21):
what stands in a fetch's place is the next stimulus of the input (30_encoding.md R90, R91). -/

namespace Sys2Proof.Machine

/-- What stands first in the pending input. -/
def fetch (s : State) : Fetched := readTrace s.pending

/-- The state with an opcode-table row's word as the first of the pending input. -/
def placeWord (s : State) (nbits w : Nat) : State :=
  { s with pending := tableItems nbits w ++ s.pending }

/-- The host stores a byte and the item is consumed (20_memory.md R66). -/
def takeHostWrite (s : State) (a : Addr) (b : Byte) (rest : List TraceItem) : State :=
  (hostWrite s a b).consume rest 1

end Sys2Proof.Machine
end

