-- ==== Sys2Proof/Machine/Step.lean ====
section
/-! DEFINITION. One step: the next item of the input takes its effect. With no input the block waits
(70_reset_and_hazards.md R342). An illegal configuration is refused before any step runs (00_scope.md R8), and so is a
word that spells no stimulus (30_encoding.md R92). -/

namespace Sys2Proof.Machine

def step (s : State) : Host.Outcome State Fault Refusal :=
  if s.cfg.wf then
    match fetch s with
    | .idle => .next s
    | .hostWrite a b rest => .next (takeHostWrite s a b rest)
    | .run i rest used => exec i (s.consume rest used)
    | .refused e => .refused (.badTrace s.position e)
  else .refused .illegalConfig

/-- `s` with an opcode-table row's word where `step` takes its next input. -/
def State.withFetchWord (s : State) (nbits w : Nat) : State := placeWord s nbits w

end Sys2Proof.Machine
end

