-- ==== Sys2Proof/Machine/Assembler.lean ====
section
/-! DEFINITION. The assembler of the spec's own syntax (30_encoding.md R98): one command a line, the mnemonic, then its
operands separated by commas, numbers decimal or `0x` hex. An operand that does not fit its field is refused by name. The
assembler is a tool of the host: no step of the block calls it. -/

namespace Sys2Proof.Machine

/-- A command with its operands as numbers, before any range check. -/
inductive AsmLine where
  | nop
  | status
  | xstatus
  | debPeek (pin : Nat)
  | irqEn (mask : Nat)
  | irqClr (mask : Nat)
  | faultInfo (half : Nat)
  | btnPop
  | uartTx (ptr len : Nat)
  | uartRxPop
  | i2cSetsa (addr7 : Nat)
  | i2cWrite (ctrl ptr len : Nat)
  | i2cWriteOne (byte : Nat)
deriving DecidableEq, Repr

/-- Why the assembler refuses. R98 gives the refusals no names: these are the model's (DESIGN CHOICE, log entry 18). -/
inductive AsmError where
  /-- an operand outside its field -/
  | doesNotFit (operand : Nat)
  /-- the line spells no command with these operands -/
  | noSuchLine
deriving DecidableEq, Repr

/-- `k` if the operand is below the bound of its field. -/
def fits (operand bound : Nat) (k : Except AsmError CmdWord) : Except AsmError CmdWord :=
  if operand < bound then k else .error (.doesNotFit operand)

/-- The word of a line (R98). X of I2C_SETSA is `addr7 << 1`, so R/S is always 0. DESIGN CHOICE (log entry 18): the operands
are checked in the order of the syntax and the first that does not fit is reported; the field of a mask is the 8 bits of X,
so a mask with a reserved bit is passed on as it is, and the block's decoder faults its word (R87). -/
def assemble : AsmLine → Except AsmError CmdWord
  | .nop => .ok (packCmd 0x00#8 0#8 0#16 0#32)
  | .status => .ok (packCmd 0x01#8 0#8 0#16 0#32)
  | .xstatus => .ok (packCmd 0x02#8 0#8 0#16 0#32)
  | .debPeek pin => fits pin 8 (.ok (packCmd 0x03#8 (BitVec.ofNat 8 pin) 0#16 0#32))
  | .irqEn mask => fits mask 256 (.ok (packCmd 0x04#8 (BitVec.ofNat 8 mask) 0#16 0#32))
  | .irqClr mask => fits mask 256 (.ok (packCmd 0x05#8 (BitVec.ofNat 8 mask) 0#16 0#32))
  | .faultInfo half => fits half 2 (.ok (packCmd 0x06#8 (BitVec.ofNat 8 half) 0#16 0#32))
  | .btnPop => .ok (packCmd 0x10#8 0#8 0#16 0#32)
  | .uartTx ptr len =>
    fits ptr (2 ^ 32) (fits len (2 ^ 16) (.ok (packCmd 0x20#8 0#8 (BitVec.ofNat 16 len) (BitVec.ofNat 32 ptr))))
  | .uartRxPop => .ok (packCmd 0x21#8 0#8 0#16 0#32)
  | .i2cSetsa addr7 => fits addr7 128 (.ok (packCmd 0x30#8 (BitVec.ofNat 8 (2 * addr7)) 0#16 0#32))
  | .i2cWrite ctrl ptr len =>
    fits ctrl 256 (fits ptr (2 ^ 32) (fits len (2 ^ 16)
      (.ok (packCmd 0x31#8 (BitVec.ofNat 8 ctrl) (BitVec.ofNat 16 len) (BitVec.ofNat 32 ptr)))))
  | .i2cWriteOne byte => fits byte 256 (.ok (packCmd 0x32#8 (BitVec.ofNat 8 byte) 0#16 0#32))

/-! ## The text of a line

R98 gives the order of mnemonic, commas and operands and the two number forms. The lexical details below are the model's
(DESIGN CHOICE, log entry 20). -/

/-- The value of a digit. DESIGN CHOICE (log entry 20): a hex digit may be written in either case. -/
def digitValue (c : Char) : Nat :=
  if '0' ≤ c ∧ c ≤ '9' then c.toNat - 48
  else if 'a' ≤ c ∧ c ≤ 'f' then c.toNat - 87
  else if 'A' ≤ c ∧ c ≤ 'F' then c.toNat - 55
  else 16

/-- The number a nonempty run of digits spells in a base. -/
def readDigits (base : Nat) (ds : List Char) : Option Nat :=
  if ds ≠ [] ∧ ds.all (fun c => digitValue c < base) then
    some (ds.foldl (fun n c => base * n + digitValue c) 0)
  else none

/-- The digits of a number without the `_` that group them. R98 has no grouping, but 43_i2c.md R233 writes a line with
`0x2000_0100`. DESIGN CHOICE (log entry 20): a `_` anywhere among the digits of a decimal or hex number is ignored. -/
def dropGrouping (ds : List Char) : List Char := ds.filter (· ≠ '_')

/-- A number, decimal or `0x` hex (R98). DESIGN CHOICE (log entry 20): the x of the prefix is lower case only, the digits
may be grouped with `_`, and the prefix itself may not. -/
def readNumber : List Char → Option Nat
  | '0' :: 'x' :: ds => readDigits 16 (dropGrouping ds)
  | ds => readDigits 10 (dropGrouping ds)

/-- The text without the spaces at its ends. DESIGN CHOICE (log entry 20): the space is the only blank, so a line with a tab
is refused. -/
def trimSpaces (cs : List Char) : List Char :=
  ((cs.dropWhile (· = ' ')).reverse.dropWhile (· = ' ')).reverse

/-- The texts between the commas. -/
def splitCommas : List Char → List (List Char)
  | [] => [[]]
  | c :: cs =>
    match splitCommas cs with
    | [] => [[c]]
    | w :: ws => if c = ',' then [] :: w :: ws else (c :: w) :: ws

/-- The operands of a line. -/
def readOperands (cs : List Char) : Option (List Nat) :=
  if trimSpaces cs = [] then some []
  else (splitCommas cs).mapM fun w => readNumber (trimSpaces w)

/-- The commands without operands, by mnemonic. -/
def plainLines : List (List Char × AsmLine) :=
  [("NOP".toList, .nop), ("STATUS".toList, .status), ("XSTATUS".toList, .xstatus),
   ("BTN_POP".toList, .btnPop), ("UART_RX_POP".toList, .uartRxPop)]

/-- The commands with one operand, by mnemonic. -/
def unaryLines (a : Nat) : List (List Char × AsmLine) :=
  [("DEB_PEEK".toList, .debPeek a), ("IRQ_EN".toList, .irqEn a), ("IRQ_CLR".toList, .irqClr a),
   ("FAULT_INFO".toList, .faultInfo a), ("I2C_SETSA".toList, .i2cSetsa a),
   ("I2C_WRITE_ONE".toList, .i2cWriteOne a)]

/-- The text before a comment. R98 has no comments, but the listings of 95_test_vectors.md do. DESIGN CHOICE (log entry 20):
a comment runs from the first `;` to the end of the line. -/
def dropComment (cs : List Char) : List Char := cs.takeWhile (· ≠ ';')

/-- The text after a label. R98 has no labels, but the listings of 95_test_vectors.md do. DESIGN CHOICE (log entry 20): a
label is what stands before the first `:`; it names a place in the host's program and adds nothing to the word. -/
def dropLabel (cs : List Char) : List Char :=
  match cs.dropWhile (· ≠ ':') with
  | [] => cs
  | _ :: rest => rest

/-- The line a text spells (R98). DESIGN CHOICE (log entry 20): a mnemonic is read only in the case R98 writes it, and a text
with no command in it (blank, or a comment or a label alone) is refused as `noSuchLine`. -/
def parseLine (cs : List Char) : Except AsmError AsmLine :=
  let text := trimSpaces (dropLabel (dropComment cs))
  let name := text.takeWhile (· ≠ ' ')
  let line : Option AsmLine :=
    match readOperands (text.dropWhile (· ≠ ' ')) with
    | some [] => plainLines.lookup name
    | some [a] => (unaryLines a).lookup name
    | some [a, b] => if name = "UART_TX".toList then some (.uartTx a b) else none
    | some [a, b, c] => if name = "I2C_WRITE".toList then some (.i2cWrite a b c) else none
    | _ => none
  match line with
  | some l => .ok l
  | none => .error .noSuchLine

/-- The word a text assembles to. -/
def assembleText (cs : List Char) : Except AsmError CmdWord :=
  match parseLine cs with
  | .ok l => assemble l
  | .error e => .error e

end Sys2Proof.Machine
end

