-- ==== Sys2Proof/Machine/HostProc.lean ====
section
/-! DEFINITION. The pseudo-instructions of 30_encoding.md R99 and `read_until` (42_uart.md R206): procedures of the HOST,
each a small machine that issues a command, looks at its response word and goes on. Stimuli of the environment may come
between any two of its commands, so a procedure is kept apart from the block; no step of the block calls it. -/

namespace Sys2Proof.Machine

/-- What a finished procedure returns. -/
inductive HostResult where
  /-- BTN_WAIT: the button mask -/
  | mask (m : Byte)
  /-- UART_WRITE: nothing -/
  | written
  /-- UART_READ_UNTIL: the count and the characters copied; the list stands for the buffer (DESIGN CHOICE, log entry 18) -/
  | read (n : Nat) (buf : List Byte)
  /-- I2C_XFER and I2C_SEND1: ok -/
  | acked (ok : Bool)
deriving DecidableEq, Repr

/-- Where a procedure stands: which command it issues next. -/
inductive HostProc where
  | btnWait
  | uartSend (ptr : Addr) (len : BitVec 16)
  | uartPoll
  | uartClear
  | readUntil (max : Nat) (delim : Byte) (buf : List Byte)
  | i2cAddress (addr7 : BitVec 7) (start : Command)
  | i2cBegin (start : Command)
  | i2cPoll
  | i2cClear (ok : Bool)
  | finished (r : HostResult)
deriving DecidableEq, Repr

/-- BTN_WAIT -> m (R99). -/
def btnWait : HostProc := .btnWait

/-- UART_WRITE ptr, len (R99). -/
def uartWrite (ptr : Addr) (len : BitVec 16) : HostProc := .uartSend ptr len

/-- UART_READ_UNTIL buf, max, delim -> n (R99, R206). DESIGN CHOICE (log entry 18): what memory `buf` names is left to the
host (20_memory.md R64), so the operand is dropped; the copied characters, `buf[0]` to `buf[n-1]` in order, are kept in the
procedure and returned as a list with the count. -/
def uartReadUntil (max : Nat) (delim : Byte) : HostProc := .readUntil max delim []

/-- I2C_XFER ctrl, ptr, len, addr7 -> ok (R99). -/
def i2cXfer (ctrl : Byte) (ptr : Addr) (len : BitVec 16) (addr7 : BitVec 7) : HostProc :=
  .i2cAddress addr7 (.i2cWrite ctrl ptr len)

/-- I2C_SEND1 byte, addr7 -> ok (R99). -/
def i2cSend1 (byte : Byte) (addr7 : BitVec 7) : HostProc := .i2cAddress addr7 (.i2cWriteOne byte)

/-- What the host does next. -/
inductive HostAction where
  | issue (c : Command)
  | done (r : HostResult)
deriving DecidableEq, Repr

/-- The next command of a procedure, or its result (R99, R206). `read_until` tests `n < max` before it pops. -/
def hostAction : HostProc → HostAction
  | .btnWait => .issue .btnPop
  | .uartSend p n => .issue (.uartTx p n)
  | .uartPoll => .issue .status
  | .uartClear => .issue (.irqClr 0x02#8)
  | .readUntil max _ buf =>
    if buf.length < max then .issue .uartRxPop else .done (.read buf.length buf)
  | .i2cAddress a _ => .issue (.i2cSetsa (a ++ 0#1))
  | .i2cBegin c => .issue c
  | .i2cPoll => .issue .status
  | .i2cClear _ => .issue (.irqClr 0x08#8)
  | .finished r => .done r

/-- Where a procedure stands after the response to its command (R99, R206). A pop that is not valid is repeated; the
delimiter is discarded and ends the read; STATUS is polled until bit 8 (UART) or bit 10 (I2C) is 0, and bit 11 is then
the I2C result. -/
def hostNext (p : HostProc) (r : Resp) : HostProc :=
  match p with
  | .btnWait => if r[8] then .finished (.mask (r.extractLsb' 0 8)) else .btnWait
  | .uartSend _ _ => .uartPoll
  | .uartPoll => if r[8] then .uartPoll else .uartClear
  | .uartClear => .finished .written
  | .readUntil max delim buf =>
    if buf.length < max then
      if r[8] then
        if r.extractLsb' 0 8 = delim then .finished (.read buf.length buf)
        else .readUntil max delim (buf ++ [r.extractLsb' 0 8])
      else .readUntil max delim buf
    else .finished (.read buf.length buf)
  | .i2cAddress _ c => .i2cBegin c
  | .i2cBegin _ => .i2cPoll
  | .i2cPoll => if r[10] then .i2cPoll else .i2cClear (!r[11])
  | .i2cClear ok => .finished (.acked ok)
  | .finished res => .finished res

/-- The procedure after a list of responses. -/
def hostFeed (p : HostProc) (rs : List Resp) : HostProc := rs.foldl hostNext p

/-- The response of a pop that found a byte (30_encoding.md R85). -/
def popValid (b : Byte) : Resp := 0#23 ++ 1#1 ++ b

end Sys2Proof.Machine
end

