-- ==== Sys2Proof/Safety.lean ====
section
/-! DEFINITION. What counts as a good state and a good run, in the terms the statements use: the invariants of 10_state.md
R23, R26, R36, R44-R48 and 60_exceptions.md R301, the quiescent state of 70_reset_and_hazards.md R344, and iterated
stimuli. -/

namespace Sys2Proof.Machine

/-- R44: a queue holds at most its capacity and its head is one of its places. -/
structure QueueInv (cap : Nat) (q : Queue) : Prop where
  count_le : q.count.toNat ≤ cap
  head_lt : q.head.toNat < cap

/-- R22, R23, R301: the record is empty unless halted, a code 0x0A-0xFF is never written, unused latch and enable bits
are 0. -/
structure HofInv (h : Hof) : Prop where
  clear : h.halted = false → h.faultCode = 0#8 ∧ h.faultInfo = 0#64
  coded : h.halted = true → 1 ≤ h.faultCode.toNat ∧ h.faultCode.toNat ≤ 9
  lat_unused : h.irqLat &&& ~~~0x1A#8 = 0#8
  en_unused : h.irqEn &&& 0x60#8 = 0#8

/-- R26, R45: the debounce invariants. -/
structure DebInv (c : Cfg) (d : Deb) : Prop where
  rem_le : ∀ i : Fin 8, d.rem[i].toNat ≤ c.window
  vote_le : ∀ i : Fin 8, d.rem[i] ≠ 0#8 → d.vote[i].toNat + d.rem[i].toNat ≤ c.window
  idle_vote : ∀ i : Fin 8, d.rem[i] = 0#8 → d.vote[i] = 0#8
  button : ∀ i : Fin 8, c.btnMask[i] = false → d.rem[i] = 0#8
  pend_button : d.edgePend &&& ~~~c.btnMask = 0#8
  pend_idle : d.edgePend &&& debSet d = 0#8
  parked_clear : parked d = true → d.edgePend = 0#8
  queue : QueueInv c.btnqCap d.btnq

/-- R46, R48, R187: the transmit invariants. A byte waits in `thr` exactly while the transfer is in flight. -/
structure TxInv (t : UartTx) : Prop where
  busy_full : t.txBusy = t.thrFull
  cursor : t.txBusy = true → t.txCur.toNat < t.txEnd.toNat
  bit_le : t.txBit.toNat ≤ 9
  idle_line : t.txAct = false → t.txd = true
  line : t.txAct = true → t.txd = frameBit t.tsr t.txBit

/-- R33, R197: the receive invariants. -/
structure RxInv (c : Cfg) (r : UartRx) : Prop where
  start_cnt : r.rxSt = .start → r.rxCnt.toNat ≤ 7
  queue : QueueInv c.rxqCap r.rxq

/-- R36, R40, R47, R48, R268: the I2C invariants. In the slots that R94 speaks of, SCL is driven low exactly in phases 0
and 1. -/
structure I2cInv (m : I2cm) : Prop where
  write_only : m.msa[0] = false
  busy_seq : m.i2cBusy = false ↔ m.seq = .idle
  no_hold : m.seq ≠ .hold
  cursor : m.i2cBusy = true → m.i2cCur.toNat ≤ m.i2cEnd.toNat
  last : m.i2cBusy = true → (m.pendStop = true ↔ m.i2cCur = m.i2cEnd)
  stop_why : m.seq = .stop → m.err = true ∨ m.pendStop = true
  err_cause : m.err = (m.adrack || m.datack || m.arblst)
  released : m.seq = .idle ∨ m.seq = .waitbus → m.sclDrv = true ∧ m.sdaDrv = true
  start_lines : m.seq = .start → m.sclDrv = true ∧ (m.sdaDrv = true ↔ m.ph = 0#2)
  slot_scl : m.seq = .xmit ∨ m.seq = .ack ∨ m.seq = .stop → (m.sclDrv = true ↔ 2 ≤ m.ph.toNat)
  xmit_sda : m.seq = .xmit → 1 ≤ m.ph.toNat → m.sdaDrv = slotBit m
  ack_sda : m.seq = .ack → 1 ≤ m.ph.toNat → m.sdaDrv = true
  stop_sda : m.seq = .stop → 1 ≤ m.ph.toNat → m.sdaDrv = false

/-- The whole invariant: a legal configuration, memory in its canonical form, and every part's invariant. -/
structure StateInv (s : State) : Prop where
  config : s.cfg.wf = true
  memory : s.mem.wf
  hof : HofInv s.hof
  deb : DebInv s.cfg s.deb
  tx : TxInv s.tx
  rx : RxInv s.cfg s.rx
  i2c : I2cInv s.i2c

/-- Fault entry written out (60_exceptions.md R303): the pre-step state with halted, fault_code and fault_info written, and
the fault noted in the model's history (log entry 9). -/
def haltedState (s : State) (code : Byte) (f : FaultRecord) : State :=
  { s with
    hof := { s.hof with halted := true, faultCode := code, faultInfo := f.info }
    faultLog := f :: s.faultLog }

/-- Fault entry of a command: it also answers RESP_HALTED (R303; 30_encoding.md R85). -/
def haltedCommand (s : State) (code : Byte) (f : FaultRecord) : State :=
  { haltedState s code f with resp := 0x80000000#32 }

/-- A stimulus's outcome is fault entry (60_exceptions.md R303) with this code and this `fault_info`: the pre-step state
with halted, fault_code and fault_info written. The model's own history is left open here (log entry 9). -/
def stimulusFaults (o : Host.Outcome State Fault Refusal) (s : State) (code : Byte) (info : BitVec 64) : Prop :=
  ∃ log, o = .next { s with
    hof := { s.hof with halted := true, faultCode := code, faultInfo := info }
    faultLog := log }

/-- A command's outcome is fault entry, with the answer RESP_HALTED (R303; 30_encoding.md R85). -/
def commandFaults (o : Host.Outcome State Fault Refusal) (s : State) (code : Byte) (info : BitVec 64) : Prop :=
  ∃ log, o = .next { s with
    hof := { s.hof with halted := true, faultCode := code, faultInfo := info }
    resp := 0x80000000#32
    faultLog := log }

/-- A quiescent state (70_reset_and_hazards.md R344). -/
def quiescent (s : State) : Bool :=
  !s.hof.halted && !s.tx.txBusy && !s.tx.thrFull && !s.tx.txAct && !s.i2c.i2cBusy &&
    s.rx.rxSt == .idle && parked s.deb

/-- The state an instruction leads to; the state itself where it leads to none. -/
def after (i : Instr) (s : State) : State :=
  match exec i s with
  | .next t => t
  | .fault _ => s
  | .refused _ => s

/-- `n` stimuli of one kind in a row. -/
def strobes (i : Instr) : Nat → State → State
  | 0, s => s
  | n + 1, s => strobes i n (after i s)

/-- A list of instructions, one after the other. -/
def runAll (is : List Instr) (s : State) : State := is.foldl (fun t i => after i t) s

/-- One pin sample: the port takes a level, and a TICK follows. -/
def pinRound (s : State) (v : Byte) : State := after .evtTick (after (.evtPins v) s)

/-- The receive line takes the level `l k` just before strobe `k`, for `k` from 1 to `n` (42_uart.md R203 counts strobes
so, from the one that saw the start edge). -/
def rxRounds (l : Nat → Bool) : Nat → State → State
  | 0, s => s
  | n + 1, s => after .evtBaud16 (after (.evtRxd (l (n + 1))) (rxRounds l n s))

end Sys2Proof.Machine
end

