-- ==== Sys2Proof/Certificates/Slice0/Obligations.lean ====
section
/-! DEFINITION. The statements for the provers. -/

open Sys2Proof Sys2Proof.Machine

/-! ## Encoding -/

/-- R83, R84, R91 (a command word may stand alone in the input, DESIGN CHOICE, log entry 2): what the encoder writes
for a well-formed instruction is read back as that instruction, with every operand at every value, and nothing after it
is consumed. -/
def Obligations.DecodeEncodeEveryInstruction : Prop :=
  ∀ (i : Instr) (rest : List TraceItem), i.wf = true →
    readTrace (encode i ++ rest) = .run i rest (encode i).length

/-- R83, R84: a word decodes to a command exactly if the command is well formed and the word is its encoding, so no
word has two meanings and no command two words. -/
def Obligations.CommandWordsDecodeOneToOne : Prop :=
  ∀ (w : CmdWord) (c : Command), decodeCmd64 w = .cmd c ↔ c.wf = true ∧ c.word = w

/-- The opcodes and masks of the table of 30_encoding.md R83. -/
def maskTable : List (Byte × CmdWord) :=
  [(0x00#8, 0xFFFFFFFFFFFFFFFF#64), (0x01#8, 0xFFFFFFFFFFFFFFFF#64), (0x02#8, 0xFFFFFFFFFFFFFFFF#64),
   (0x03#8, 0xFFF8FFFFFFFFFFFF#64), (0x04#8, 0xFF60FFFFFFFFFFFF#64), (0x05#8, 0xFF60FFFFFFFFFFFF#64),
   (0x06#8, 0xFFFEFFFFFFFFFFFF#64), (0x10#8, 0xFFFFFFFFFFFFFFFF#64), (0x20#8, 0xFFFF000000000000#64),
   (0x21#8, 0xFFFFFFFFFFFFFFFF#64), (0x30#8, 0xFF00FFFFFFFFFFFF#64), (0x31#8, 0xFF00000000000000#64),
   (0x32#8, 0xFF00FFFFFFFFFFFF#64)]

/-- R84, for every 64-bit word: no row of R83's table has the opcode, then ILLEGAL; a row has it and a must-be-0 bit is
1, then RESERVED; else the command whose word it is. -/
def Obligations.OpcodeCheckedBeforeReservedFields : Prop :=
  ∀ w : CmdWord, let op := w.extractLsb' 56 8
    ((∀ m, (op, m) ∉ maskTable) → decodeCmd64 w = .illegal op) ∧
    (∀ m, (op, m) ∈ maskTable → w &&& m ≠ op.setWidth 64 <<< 56 → decodeCmd64 w = .reserved op) ∧
    (∀ m, (op, m) ∈ maskTable → w &&& m = op.setWidth 64 <<< 56 → ∃ c, decodeCmd64 w = .cmd c ∧ c.word = w)

/-- The payload bits that R91 marks 0, by tag. -/
def payloadZeros (tag : Byte) : Byte :=
  if tag = 0x01#8 then 0x00#8 else if tag = 0x04#8 then 0xFE#8 else if tag = 0x06#8 then 0xFC#8 else 0xFF#8

/-- R92 (the position is the model's count of items, DESIGN CHOICE, log entries 1 and 2): a word with a tag outside 1
to 8, or with a nonzero payload bit that R91 marks 0, is refused by name and position; any other word with tag 1 to 7
is the stimulus it encodes. -/
def Obligations.MalformedTraceWordsAreRefused : Prop :=
  ∀ (s : State) (h : EvtWord) (rest : List TraceItem), s.cfg.wf = true → s.pending = .half h :: rest →
    let tag := h.extractLsb' 8 8
    let payload := h.extractLsb' 0 8
    (tag = 0#8 ∨ 9 ≤ tag.toNat → step s = .refused (.badTrace s.position (.badTag tag))) ∧
    (1 ≤ tag.toNat → tag.toNat ≤ 8 → payload &&& payloadZeros tag ≠ 0#8 →
      step s = .refused (.badTrace s.position (.badPayload tag payload))) ∧
    (1 ≤ tag.toNat → tag.toNat ≤ 7 → payload &&& payloadZeros tag = 0#8 →
      ∃ i, encode i = [.half h] ∧ step s = exec i { s with pending := rest, position := s.position + 1 })

/-- R82, R91: words written out from the spec's encodings and examples decode to the instructions they stand for. -/
def Obligations.SpecWordsDecodeToTheirInstructions : Prop :=
  decodeTableWord 64 0x0304000000000000 = some (.debPeek 4) ∧
  decodeTableWord 64 0x048A000000000000 = some (.irqEn 0x8A) ∧
  decodeTableWord 64 0x2000000220000000 = some (.uartTx 0x20000000 2) ∧
  decodeTableWord 64 0x3078000000000000 = some (.i2cSetsa 0x78) ∧
  decodeTableWord 64 0x3140000220000100 = some (.i2cWrite 0x40 0x20000100 2) ∧
  decodeTableWord 64 0x3242000000000000 = some (.i2cWriteOne 0x42) ∧
  decodeTableWord 16 0x01EF = some (.evtPins 0xEF) ∧
  decodeTableWord 16 0x0401 = some (.evtRxd true) ∧
  decodeTableWord 16 0x0602 = some (.evtBusext false true) ∧
  decodeTableWord 16 0x0700 = some .evtReset

/-! ## The step -/

/-- A step runs the decoded instruction (the input list is the model's, DESIGN CHOICE, log entry 1): when the input
decodes to `i`, step is exec of `i` at the state whose input is what follows; and it does so when the input begins with
the encoding of a well-formed `i`. -/
def Obligations.StepRunsTheDecodedInstruction : Prop :=
  (∀ (s : State) (i : Instr) (rest : List TraceItem) (used : Nat), s.cfg.wf = true →
    readTrace s.pending = .run i rest used →
    step s = exec i { s with pending := rest, position := s.position + used }) ∧
  (∀ (s : State) (i : Instr) (rest : List TraceItem), s.cfg.wf = true → i.wf = true →
    s.pending = encode i ++ rest →
    step s = exec i { s with pending := rest, position := s.position + (encode i).length })

/-- R8, R92, R342 (the input list is the model's, DESIGN CHOICE, log entry 1): a step answers a next state unless the
configuration is illegal or the next input word spells no stimulus; with no input the block waits unchanged. -/
def Obligations.StepStopsOnlyOnBadConfigOrTrace : Prop :=
  ∀ s : State,
    (s.cfg.wf = false → step s = .refused .illegalConfig) ∧
    (s.cfg.wf = true → s.pending = [] → step s = .next s) ∧
    (s.cfg.wf = true → (∃ t, step s = .next t) ∨
      ∃ e, readTrace s.pending = .refused e ∧ step s = .refused (.badTrace s.position e))

/-- R26, R36, R44 to R48, R301: every step keeps the invariant, from every state that has it. -/
def Obligations.EveryStepKeepsTheInvariant : Prop :=
  ∀ s t : State, StateInv s → step s = .next t → StateInv t

/-- R49, R340: the launch state of every legal configuration, every launch level and every canonical memory has the
invariant, and so has the model's reset state (DESIGN CHOICE, log entries 3, 4 and 7). -/
def Obligations.InvariantHoldsAtLaunch : Prop :=
  (∀ (c : Cfg) (l : LaunchLevels) (m : Memory), c.wf = true → m.wf → StateInv (State.launch c l m)) ∧ StateInv State.reset

/-- The frame of the whole instruction set: parameters, memory and the input are never written, and each part of the
state is written only by the instructions named (R6, R12, R42, R64, R85, R303, R305 and the written-by columns of R22
to R41). The model's choice, no rule of the spec: the input list (log entry 1), and that the response word is kept by
RESET and every other stimulus that is no command (DESIGN CHOICE, log entry 6). Of the hand-off state, the enables move
only by IRQ_EN and RESET, the fault record only where the halted bit moves, and the unused latch bits only by RESET;
the latches themselves are LatchesMoveOnlyByTheirEvents. -/
def Obligations.InstructionsTouchOnlyTheirUnit : Prop :=
  ∀ (i : Instr) (s t : State), exec i s = .next t →
    t.cfg = s.cfg ∧ t.mem = s.mem ∧ t.pending = s.pending ∧ t.position = s.position ∧
    (t.inp = s.inp ∨ (∃ v, i = .evtPins v) ∨ (∃ b, i = .evtRxd b) ∨ ∃ c d, i = .evtBusext c d) ∧
    (t.deb = s.deb ∨ (∃ v, i = .evtPins v) ∨ i = .evtTick ∨ i = .btnPop ∨ i = .evtReset ∨ ∃ w, i = .evtCmd w) ∧
    (t.tx = s.tx ∨ i = .evtBaud16 ∨ (∃ p n, i = .uartTx p n) ∨ i = .evtReset ∨ ∃ w, i = .evtCmd w) ∧
    (t.rx = s.rx ∨ i = .evtBaud16 ∨ i = .uartRxPop ∨ (∃ m, i = .irqClr m) ∨ i = .evtReset ∨ ∃ w, i = .evtCmd w) ∧
    (t.i2c = s.i2c ∨ i = .evtI2cq ∨ (∃ m, i = .i2cSetsa m) ∨ (∃ c p n, i = .i2cWrite c p n) ∨
      (∃ b, i = .i2cWriteOne b) ∨ i = .evtReset ∨ ∃ w, i = .evtCmd w) ∧
    (t.resp = s.resp ∨ i.command?.isSome = true ∨ ∃ w, i = .evtCmd w) ∧
    (t.hof.irqEn = s.hof.irqEn ∨ (∃ m, i = .irqEn m) ∨ i = .evtReset ∨ ∃ w, i = .evtCmd w) ∧
    (t.hof.halted = s.hof.halted → i ≠ .evtReset →
      t.hof.faultCode = s.hof.faultCode ∧ t.hof.faultInfo = s.hof.faultInfo) ∧
    (t.hof.irqLat &&& 0xE5#8 = s.hof.irqLat &&& 0xE5#8 ∨ i = .evtReset)

/-- R66, R350 as the model takes them (DESIGN CHOICE, log entry 5): a host write in the input stores its byte where MEM
admits the address, every other address reads as before, and the block itself is untouched. -/
def Obligations.HostWriteChangesOneAdmittedByte : Prop :=
  ∀ (s : State) (a : Addr) (b : Byte) (rest : List TraceItem), s.cfg.wf = true →
    s.pending = .hostWrite a b :: rest →
    ∃ m, step s = .next { s with mem := m, pending := rest, position := s.position + 1 } ∧
      (∀ x, x ≠ a.toNat → memGet m x = memGet s.mem x) ∧
      memGet m a.toNat = (memGet s.mem a.toNat).map (fun _ => b)

/-! ## Halting -/

/-- R302: what each stimulus does to a halted block. -/
def Obligations.HaltedBlockAnswersOnlyStatusReads : Prop :=
  ∀ s : State, s.hof.halted = true →
    (∃ t, exec .evtReset s = .next t ∧
      exec .evtReset { s with hof := { s.hof with halted := false } } = .next t) ∧
    (∀ w, (w = 0x0100000000000000#64 → exec (.evtCmd w) s = .next { s with resp := statusWord s }) ∧
      (w = 0x0200000000000000#64 → exec (.evtCmd w) s = .next { s with resp := xstatusWord s }) ∧
      (w = 0x0600000000000000#64 → exec (.evtCmd w) s = .next { s with resp := s.hof.faultInfo.setWidth 32 }) ∧
      (w = 0x0601000000000000#64 →
        exec (.evtCmd w) s = .next { s with resp := (s.hof.faultInfo >>> 32).setWidth 32 }) ∧
      (w ≠ 0x0100000000000000#64 → w ≠ 0x0200000000000000#64 → w ≠ 0x0600000000000000#64 →
        w ≠ 0x0601000000000000#64 → exec (.evtCmd w) s = .next { s with resp := 0x80000000#32 })) ∧
    (∀ v, exec (.evtPins v) s = .next { s with inp := { s.inp with pins := v } }) ∧
    (∀ b, exec (.evtRxd b) s = .next { s with inp := { s.inp with rxd := b } }) ∧
    (∀ c d, exec (.evtBusext c d) s = .next { s with inp := { s.inp with sclExt := c, sdaExt := d } }) ∧
    exec .evtTick s = .next s ∧ exec .evtBaud16 s = .next s ∧ exec .evtI2cq s = .next s

/-- R303, R304 (the fault history is the model's, log entry 9): a step that raises a fault leaves the pre-step state
with only the fault record written, and a command answers RESP_HALTED. -/
def Obligations.FaultDiscardsTheWholeStep : Prop :=
  ∀ (i : Instr) (s t : State), s.hof.halted = false → exec i s = .next t → t.hof.halted = true →
    ∃ f : FaultRecord, (i.command?.isSome = true ∨ (∃ w, i = .evtCmd w) → t = haltedCommand s f.code.bits f) ∧
      (i.command?.isSome = false → (∀ w, i ≠ .evtCmd w) → t = haltedState s f.code.bits f)

/-- R305: no instruction but RESET clears or overwrites a recorded fault; RESET clears it, and the model's history of
faults only grows (log entry 9). -/
def Obligations.OnlyResetLeavesTheHaltedState : Prop :=
  ∀ (i : Instr) (s t : State), exec i s = .next t →
    (s.hof.halted = true → i ≠ .evtReset →
      t.hof = s.hof ∧ t.faultLog = s.faultLog) ∧
    (i = .evtReset → t.hof.halted = false ∧ t.hof.faultCode = 0#8 ∧ t.hof.faultInfo = 0#64 ∧
      t.faultLog = s.faultLog) ∧
    (t.faultLog = s.faultLog ∨ ∃ f, t.faultLog = f :: s.faultLog)

/-- R111: CMD(w) on a block that runs raises ILLEGAL_OPCODE or RSVD_FIELD, in that order, or runs the command; CMD(w)
of a well-formed command's word does exactly what the command does, halted or not. -/
def Obligations.CommandPortDispatches : Prop :=
  (∀ (s : State) (w : CmdWord), s.hof.halted = false → (∀ m, (w.extractLsb' 56 8, m) ∉ maskTable) →
    commandFaults (exec (.evtCmd w) s) s 0x01#8 w) ∧
  (∀ (s : State) (w m : CmdWord), s.hof.halted = false → (w.extractLsb' 56 8, m) ∈ maskTable →
    w &&& m ≠ (w.extractLsb' 56 8).setWidth 64 <<< 56 →
    commandFaults (exec (.evtCmd w) s) s 0x02#8 w) ∧
  (∀ (s : State) (w : CmdWord), s.hof.halted = true → (∀ c, decodeCmd64 w ≠ .cmd c) →
    exec (.evtCmd w) s = .next { s with resp := 0x80000000#32 }) ∧
  (∀ (s : State) (c : Command), c.wf = true →
    ∃ t, exec (.evtCmd c.word) s = .next t ∧ exec c.toInstr s = .next t)

/-! ## Hand-off commands -/

/-- R112: NOP is the word of all zeros; it leaves the state unchanged and responds 0; halted, it answers RESP_HALTED
(R302). -/
def Obligations.NopOnlyResponds : Prop :=
  (∀ w, decodeCmd64 w = .cmd .nop ↔ w = 0x0000000000000000#64) ∧
  ∀ s : State, exec .nop s = .next { s with resp := if s.hof.halted then 0x80000000#32 else 0#32 }

/-- R113, R114: STATUS is the word 0x0100_0000_0000_0000; it changes nothing but the response, halted or not; every
field of the word and every pending bit is as the tables say, and `irq` is the OR of the enabled pending causes. -/
def Obligations.StatusWordFields : Prop :=
  (∀ w, decodeCmd64 w = .cmd .status ↔ w = 0x0100000000000000#64) ∧
  ∀ s : State, ∃ r : Resp, exec .status s = .next { s with resp := r } ∧
    r.extractLsb' 0 4 = s.deb.btnq.count ∧ r.extractLsb' 4 4 = s.rx.rxq.count ∧
    r[8] = s.tx.txBusy ∧ r[9] = (s.tx.thrFull || s.tx.txAct) ∧ r[10] = s.i2c.i2cBusy ∧ r[11] = s.i2c.i2cRes ∧
    r[12] = s.rx.fe ∧ r[13] = s.rx.oe ∧ (r[14] = true ↔ ∃ i : Fin 8, s.deb.rem[i] ≠ 0#8) ∧
    r[15] = s.hof.halted ∧ r.extractLsb' 16 8 = s.hof.faultCode ∧
    (r[24] = true ↔ 0 < s.deb.btnq.count.toNat) ∧ r[25] = s.hof.irqLat[1] ∧
    (r[26] = true ↔ 0 < s.rx.rxq.count.toNat) ∧ r[27] = s.hof.irqLat[3] ∧ r[28] = s.hof.irqLat[4] ∧
    r[29] = false ∧ r[30] = false ∧ r[31] = s.hof.halted ∧
    (irqLine s = true ↔ r.extractLsb' 24 8 &&& s.hof.irqEn ≠ 0#8)

/-- R115: XSTATUS is the word 0x0200_0000_0000_0000; it changes nothing but the response; bits 0 to 7 are the MCS image
of R270. -/
def Obligations.XstatusWordFields : Prop :=
  (∀ w, decodeCmd64 w = .cmd .xstatus ↔ w = 0x0200000000000000#64) ∧
  ∀ s : State, ∃ r : Resp, exec .xstatus s = .next { s with resp := r } ∧
    (r[0] = true ↔ s.i2c.seq ∈ [.waitbus, .start, .xmit, .ack, .stop]) ∧
    r[1] = s.i2c.err ∧ r[2] = s.i2c.adrack ∧ r[3] = s.i2c.datack ∧ r[4] = s.i2c.arblst ∧
    (r[5] = true ↔ s.i2c.seq = .idle) ∧ (r[6] = true ↔ s.i2c.seq ∈ [.start, .xmit, .ack, .hold, .stop]) ∧
    r[7] = false ∧ r.extractLsb' 8 8 = s.i2c.msa ∧ r.extractLsb' 16 8 = s.hof.irqEn ∧ r.extractLsb' 24 8 = 0#8

/-- R116: IRQ_EN is OP 0x04 with the mask in X; it writes the enables; a pending cause it enables raises `irq` at once;
a mask with bit 5 or 6 set is RSVD_FIELD. -/
def Obligations.IrqEnWritesTheEnables : Prop :=
  (∀ w mask, decodeCmd64 w = .cmd (.irqEn mask) ↔
    mask &&& 0x60#8 = 0#8 ∧ w = (0x04#8 ++ mask ++ 0#16 ++ 0#32 : CmdWord)) ∧
  ∀ (s : State) (mask : Byte), s.hof.halted = false →
    (mask &&& 0x60#8 = 0#8 → ∃ t, exec (.irqEn mask) s = .next t ∧
      t = { s with hof := { s.hof with irqEn := mask }, resp := 0#32 } ∧
      (irqLine t = true ↔ irqPend s &&& mask ≠ 0#8)) ∧
    (mask &&& 0x60#8 ≠ 0#8 → commandFaults (exec (.evtCmd (0x04#8 ++ mask ++ 0#16 ++ 0#32)) s) s 0x02#8
      (0x04#8 ++ mask ++ 0#16 ++ 0#32))

/-- R117: IRQ_CLR is OP 0x05 with the mask in X; it clears exactly the latches 1, 3 and 4 whose mask bit is 1, and with
bit 4 the flags FE and OE; a mask with bit 5 or 6 set is RSVD_FIELD. -/
def Obligations.IrqClrIsWriteOneToClear : Prop :=
  (∀ w mask, decodeCmd64 w = .cmd (.irqClr mask) ↔
    mask &&& 0x60#8 = 0#8 ∧ w = (0x05#8 ++ mask ++ 0#16 ++ 0#32 : CmdWord)) ∧
  ∀ (s : State) (mask : Byte), s.hof.halted = false →
    (mask &&& 0x60#8 = 0#8 → ∃ lat : Byte,
      exec (.irqClr mask) s = .next { s with
        hof := { s.hof with irqLat := lat }
        rx := { s.rx with fe := s.rx.fe && !mask[4], oe := s.rx.oe && !mask[4] }
        resp := 0#32 } ∧
      ∀ j : Fin 8, lat[j] = (s.hof.irqLat[j] && !(mask[j] && (j == 1 || j == 3 || j == 4)))) ∧
    (mask &&& 0x60#8 ≠ 0#8 → commandFaults (exec (.evtCmd (0x05#8 ++ mask ++ 0#16 ++ 0#32)) s) s 0x02#8
      (0x05#8 ++ mask ++ 0#16 ++ 0#32))

/-- DEDUCED (log entry 10), no rule of the spec: the terms IRQ_EN and IRQ_CLR with a reserved mask bit set, which no
word decodes to, do what the command port does with the word that would spell them. -/
def Obligations.ReservedMaskTermsActAsTheirWords : Prop :=
  ∀ (s : State) (mask : Byte), mask &&& 0x60#8 ≠ 0#8 →
    (∃ t, exec (.irqEn mask) s = .next t ∧ exec (.evtCmd (0x04#8 ++ mask ++ 0#16 ++ 0#32)) s = .next t) ∧
    (∃ t, exec (.irqClr mask) s = .next t ∧ exec (.evtCmd (0x05#8 ++ mask ++ 0#16 ++ 0#32)) s = .next t)

/-- R118: FAULT_INFO 0 answers the low word of `fault_info`, FAULT_INFO 1 the high word, halted or not; both are 0
while no fault is recorded; a word with X[7:1] set is RSVD_FIELD on a block that is not halted. -/
def Obligations.FaultInfoAnswersOneHalf : Prop :=
  (∀ w half, decodeCmd64 w = .cmd (.faultInfo half) ↔
    w = (0x06#8 ++ (0#7 ++ half : Byte) ++ 0#16 ++ 0#32 : CmdWord)) ∧
  (∀ (s : State) (w : CmdWord), s.hof.halted = false → w.extractLsb' 56 8 = 0x06#8 → w.extractLsb' 49 7 ≠ 0#7 →
    commandFaults (exec (.evtCmd w) s) s 0x02#8 w) ∧
  ∀ s : State, ∃ lo hi : Resp, exec (.faultInfo 0) s = .next { s with resp := lo } ∧
    exec (.faultInfo 1) s = .next { s with resp := hi } ∧
    s.hof.faultInfo.toNat = hi.toNat * 2 ^ 32 + lo.toNat ∧
    (HofInv s.hof → s.hof.halted = false → lo = 0#32 ∧ hi = 0#32)

/-! ## Debounce -/

/-- R150, R28: BTN_POP on an empty queue answers 0 and changes nothing else; else it takes the first entry in delivery
order and answers it with bit 8 set. -/
def Obligations.ButtonPopIsFifo : Prop :=
  (∀ w, decodeCmd64 w = .cmd .btnPop ↔ w = 0x1000000000000000#64) ∧
  ∀ s : State, s.hof.halted = false → 1 ≤ s.cfg.btnqCap → s.cfg.btnqCap ≤ 15 → QueueInv s.cfg.btnqCap s.deb.btnq →
    (s.deb.btnq.count = 0#4 → exec .btnPop s = .next { s with resp := 0#32 }) ∧
    (∀ m ms, queueList s.cfg.btnqCap s.deb.btnq = m :: ms → ∃ q,
      exec .btnPop s = .next { s with deb := { s.deb with btnq := q }, resp := 0x100#32 ||| m.setWidth 32 } ∧
      queueList s.cfg.btnqCap q = ms ∧ q.count.toNat + 1 = s.deb.btnq.count.toNat)

/-- R152: DEB_PEEK answers the lane's counters and changes nothing else; a lane outside BTN_MASK reads 0; a word with
X[7:3] set is RSVD_FIELD. -/
def Obligations.DebPeekShowsOneLane : Prop :=
  (∀ w pin, decodeCmd64 w = .cmd (.debPeek pin) ↔
    w = (0x03#8 ++ (0#5 ++ pin : Byte) ++ 0#16 ++ 0#32 : CmdWord)) ∧
  (∀ (s : State) (w : CmdWord), s.hof.halted = false → w.extractLsb' 56 8 = 0x03#8 → w.extractLsb' 51 5 ≠ 0#5 →
    commandFaults (exec (.evtCmd w) s) s 0x02#8 w) ∧
  ∀ (s : State) (pin : BitVec 3), s.hof.halted = false → ∃ r : Resp,
    exec (.debPeek pin) s = .next { s with resp := r } ∧
    (∀ i : Fin 8, i.val = pin.toNat → r.extractLsb' 0 8 = s.deb.rem[i] ∧ r.extractLsb' 8 8 = s.deb.vote[i] ∧
      r[16] = s.deb.edgePend[i] ∧ (r[17] = true ↔ s.deb.rem[i] ≠ 0#8)) ∧
    r.extractLsb' 18 14 = 0#14 ∧
    (DebInv s.cfg s.deb → s.cfg.btnMask.getLsbD pin.toNat = false → r = 0#32)

/-- R141, R142: PINS(v) is tag 0x01; it moves the port; edges on button lanes that are not debouncing are captured; a
parked engine takes every captured lane into debouncing at once, a sampling engine keeps them in the latch. -/
def Obligations.PinsCaptureAndWake : Prop :=
  (∀ h v, decodeEvt16 h = .event (.evtPins v) ↔ h = (0x01#8 ++ v : EvtWord)) ∧
  ∀ (s : State) (v : Byte), s.hof.halted = false →
    let edge : Fin 8 → Bool := fun i =>
      if s.cfg.edge = .falling then s.inp.pins[i] && !v[i] else s.inp.pins[i] != v[i]
    let cap : Fin 8 → Bool := fun i => s.deb.edgePend[i] || (edge i && s.cfg.btnMask[i] && s.deb.rem[i] == 0#8)
    ∃ d : Deb, exec (.evtPins v) s = .next { s with inp := { s.inp with pins := v }, deb := d } ∧
      d.btnq = s.deb.btnq ∧
      ((∀ i : Fin 8, s.deb.rem[i] = 0#8) → d.edgePend = 0#8 ∧
        ∀ i : Fin 8, d.rem[i] = (if cap i then BitVec.ofNat 8 s.cfg.window else s.deb.rem[i]) ∧
          d.vote[i] = (if cap i then 0#8 else s.deb.vote[i])) ∧
      ((∃ i : Fin 8, s.deb.rem[i] ≠ 0#8) →
        d.rem = s.deb.rem ∧ d.vote = s.deb.vote ∧ ∀ i : Fin 8, d.edgePend[i] = cap i)

/-- R143, R144: a parked engine ignores TICK. A sampling engine counts every debouncing lane down and its 1-samples up;
the lanes that reach 0 with a press vote give one event, their mask, at the tail of the queue, or BTNQ_FULL; captured
lanes then start their windows. The invariant is a premise because the counters are compared as numbers (R153). -/
def Obligations.TickVotesCountsAndFinalizes : Prop :=
  (∀ h, decodeEvt16 h = .event .evtTick ↔ h = 0x0200#16) ∧
  ∀ s : State, StateInv s → s.hof.halted = false →
    let k : Fin 8 → Nat := fun i => s.deb.vote[i].toNat + (if s.inp.pins[i] then 1 else 0)
    let press : Fin 8 → Bool := fun i => s.deb.rem[i] == 1#8 &&
      (if s.cfg.voteCmp = .exact then decide (4 * k i < s.cfg.window) else decide (k i < s.cfg.window / 4))
    ((∀ i : Fin 8, s.deb.rem[i] = 0#8) → exec .evtTick s = .next s) ∧
    ((∃ i, press i = true) → s.deb.btnq.count.toNat = s.cfg.btnqCap →
      ∃ m : Byte, (∀ i : Fin 8, m[i] = press i) ∧
        stimulusFaults (exec .evtTick s) s 0x08#8 (m.setWidth 64)) ∧
    ((∃ i : Fin 8, s.deb.rem[i] ≠ 0#8) → (∀ i, press i = false) ∨ s.deb.btnq.count.toNat ≠ s.cfg.btnqCap →
      ∃ d : Deb, exec .evtTick s = .next { s with deb := d } ∧ d.edgePend = 0#8 ∧
        (∀ i : Fin 8, d.rem[i].toNat = if s.deb.edgePend[i] then s.cfg.window else s.deb.rem[i].toNat - 1) ∧
        (∀ i : Fin 8, d.vote[i].toNat =
          if s.deb.edgePend[i] || decide (s.deb.rem[i].toNat ≤ 1) then 0 else k i) ∧
        ((∀ i, press i = false) → d.btnq = s.deb.btnq) ∧
        ((∃ i, press i = true) → ∃ m : Byte, (∀ i : Fin 8, m[i] = press i) ∧
          queueList s.cfg.btnqCap d.btnq = queueList s.cfg.btnqCap s.deb.btnq ++ [m]))

/-- R144, R147 over a whole window: with one button lane whose window has just begun, any W samples, each a PINS and a
TICK, give exactly one event if the number of 1-samples passes the vote and none otherwise, whatever their order, and
the engine is parked again. -/
def Obligations.WindowIsDecidedByTheCount : Prop :=
  ∀ (s : State) (i : Fin 8) (vs : List Byte), StateInv s → s.hof.halted = false →
    s.cfg.btnMask = 1#8 <<< i.val → s.deb.rem[i].toNat = s.cfg.window → s.deb.vote[i] = 0#8 →
    s.deb.btnq.count.toNat ≠ s.cfg.btnqCap → vs.length = s.cfg.window →
    let t := vs.foldl pinRound s
    let k := vs.countP (fun v => v[i])
    let press : Bool := if s.cfg.voteCmp = .exact then decide (4 * k < s.cfg.window)
      else decide (k < s.cfg.window / 4)
    t.hof = s.hof ∧ parked t.deb = true ∧
      queueList s.cfg.btnqCap t.deb.btnq =
        queueList s.cfg.btnqCap s.deb.btnq ++ (if press then [1#8 <<< i.val] else [])

/-! ## UART -/

/-- R181, with R307's order of checks: UART_TX reports TX_BUSY, TX_LEN0, BUF_WRAP, MEM_READ in that order, else arms
the transfer with the byte at P and clears TXDONE. -/
def Obligations.UartTxArmsOrFaults : Prop :=
  (∀ w p n, decodeCmd64 w = .cmd (.uartTx p n) ↔ w = (0x20#8 ++ 0#8 ++ n ++ p : CmdWord)) ∧
  ∀ (s : State) (p : Addr) (n : BitVec 16), s.hof.halted = false →
    let w : CmdWord := 0x20#8 ++ 0x00#8 ++ n ++ p
    (s.tx.txBusy = true → commandFaults (exec (.uartTx p n) s) s 0x03#8 w) ∧
    (s.tx.txBusy = false → n = 0#16 →
      commandFaults (exec (.uartTx p n) s) s 0x04#8 w) ∧
    (s.tx.txBusy = false → n ≠ 0#16 → 0xFFFFFFFF < p.toNat + n.toNat →
      commandFaults (exec (.uartTx p n) s) s 0x05#8 w) ∧
    (s.tx.txBusy = false → n ≠ 0#16 → p.toNat + n.toNat ≤ 0xFFFFFFFF → memGet s.mem p.toNat = none →
      commandFaults (exec (.uartTx p n) s) s 0x09#8 (p.setWidth 64)) ∧
    (∀ b, s.tx.txBusy = false → n ≠ 0#16 → p.toNat + n.toNat ≤ 0xFFFFFFFF → memGet s.mem p.toNat = some b →
      exec (.uartTx p n) s = .next { s with
        tx := { s.tx with
          txCur := p
          txEnd := BitVec.ofNat 32 (p.toNat + n.toNat)
          thr := b
          thrFull := true
          txBusy := true }
        hof := { s.hof with irqLat := s.hof.irqLat &&& 0xFD#8 }
        resp := 0#32 })

/-- R186, R187, R189: what BAUD16 does to the transmit half and to TXDONE: within a bit, at a bit's end, at the frame's
end, at a load with its TXE, or nothing; and the fault of a TXE read. -/
def Obligations.TransmitStrobe : Prop :=
  ∀ s : State, s.hof.halted = false → s.tx.txBit.toNat ≤ 9 →
    let frameEnds := s.tx.txPre = 15#4 ∧ s.tx.txBit = 9#4
    let free := s.tx.txAct = false ∨ frameEnds
    let loaded : UartTx := { s.tx with
      tsr := s.tx.thr, thrFull := false, txAct := true, txBit := 0#4, txPre := 0#4, txd := false,
      txCur := s.tx.txCur + 1#32 }
    (s.tx.txAct = true → s.tx.txPre ≠ 15#4 → ∃ t, exec .evtBaud16 s = .next t ∧
      t.tx = { s.tx with txPre := s.tx.txPre + 1#4 } ∧ t.hof.irqLat[1] = s.hof.irqLat[1]) ∧
    (s.tx.txAct = true → s.tx.txPre = 15#4 → s.tx.txBit ≠ 9#4 → ∃ t, exec .evtBaud16 s = .next t ∧
      t.tx = { s.tx with
        txPre := 0#4
        txBit := s.tx.txBit + 1#4
        txd := if s.tx.txBit = 8#4 then true else s.tx.tsr.getLsbD s.tx.txBit.toNat } ∧
      t.hof.irqLat[1] = s.hof.irqLat[1]) ∧
    (s.tx.txAct = true → frameEnds → s.tx.thrFull = false → ∃ t, exec .evtBaud16 s = .next t ∧
      t.tx = { s.tx with txPre := 0#4, txBit := 0#4, txAct := false, txd := true } ∧
      t.hof.irqLat[1] = s.hof.irqLat[1]) ∧
    (s.tx.txAct = false → s.tx.thrFull = false → ∃ t, exec .evtBaud16 s = .next t ∧
      t.tx = s.tx ∧ t.hof.irqLat[1] = s.hof.irqLat[1]) ∧
    (free → s.tx.thrFull = true → s.tx.txCur + 1#32 = s.tx.txEnd → ∃ t, exec .evtBaud16 s = .next t ∧
      t.tx = { loaded with txBusy := false } ∧ t.hof.irqLat[1] = true ∧ t.hof.halted = false) ∧
    (∀ b, free → s.tx.thrFull = true → s.tx.txCur + 1#32 ≠ s.tx.txEnd →
      memGet s.mem (s.tx.txCur + 1#32).toNat = some b → ∃ t, exec .evtBaud16 s = .next t ∧
      t.tx = { loaded with thr := b, thrFull := true } ∧ t.hof.irqLat[1] = s.hof.irqLat[1] ∧ t.hof.halted = false) ∧
    (free → s.tx.thrFull = true → s.tx.txCur + 1#32 ≠ s.tx.txEnd →
      memGet s.mem (s.tx.txCur + 1#32).toNat = none →
      stimulusFaults (exec .evtBaud16 s) s 0x09#8 ((s.tx.txCur + 1#32).setWidth 64))

/-- R195 to R199, R201, R202: what a BAUD16 that raises no fault does to the receive half and to RXERR, in each state
of the machine. -/
def Obligations.ReceiveStrobe : Prop :=
  ∀ s t : State, StateInv s → s.hof.halted = false → exec .evtBaud16 s = .next t → t.hof.halted = false →
    let r := s.rx
    let lvl := s.inp.rxd
    let full := s.rx.rxq.count.toNat = s.cfg.rxqCap
    (r.rxSt = .idle → t.rx = (if r.rxPrev = true ∧ lvl = false
      then { r with rxSt := .start, rxCnt := 0#4, rxPrev := lvl } else { r with rxPrev := lvl })) ∧
    (r.rxSt = .start → t.rx = (if r.rxCnt ≠ 7#4 then { r with rxCnt := r.rxCnt + 1#4, rxPrev := lvl }
      else if lvl = false then { r with rxSt := .data, rxCnt := 0#4, rxBit := 0#3, rxPrev := lvl }
      else { r with rxSt := .idle, rxPrev := lvl })) ∧
    (r.rxSt = .data → r.rxCnt ≠ 15#4 → t.rx = { r with rxCnt := r.rxCnt + 1#4, rxPrev := lvl }) ∧
    (r.rxSt = .data → r.rxCnt = 15#4 → ∃ sh : Byte,
      (∀ j : Fin 8, sh[j] = if j.val = r.rxBit.toNat then lvl else r.rxSh[j]) ∧
      t.rx = (if r.rxBit = 7#3 then { r with rxCnt := 0#4, rxSh := sh, rxSt := .stop, rxPrev := lvl }
        else { r with rxCnt := 0#4, rxSh := sh, rxBit := r.rxBit + 1#3, rxPrev := lvl })) ∧
    (r.rxSt = .stop → r.rxCnt ≠ 15#4 → t.rx = { r with rxCnt := r.rxCnt + 1#4, rxPrev := lvl }) ∧
    (r.rxSt = .stop → r.rxCnt = 15#4 → full → t.rx =
      { r with rxCnt := 0#4, rxSt := .idle, rxPrev := lvl, fe := r.fe || !lvl, oe := true }) ∧
    (r.rxSt = .stop → r.rxCnt = 15#4 → ¬full → ∃ q, t.rx =
      { r with rxCnt := 0#4, rxSt := .idle, rxPrev := lvl, fe := r.fe || !lvl, rxq := q } ∧
      queueList s.cfg.rxqCap q = queueList s.cfg.rxqCap r.rxq ++ [r.rxSh]) ∧
    (t.hof.irqLat[4] = true ↔ s.hof.irqLat[4] = true ∨
      (r.rxSt = .stop ∧ r.rxCnt = 15#4 ∧ (lvl = false ∨ full)))

/-- R187, R188: from the load strobe on, frame bit j is on `txd` for the 16 strobes 16·j to 16·j + 15, and with nothing
more to send the line is idle at strobe 160. -/
def Obligations.FrameOnTheWire : Prop :=
  ∀ s : State, StateInv s → s.hof.halted = false → s.tx.txAct = true → s.tx.txBit = 0#4 → s.tx.txPre = 0#4 →
    (∀ j k : Nat, j ≤ 9 → k ≤ 15 → (strobes .evtBaud16 (16 * j + k) s).tx.txd =
      (if j = 0 then false else if j = 9 then true else s.tx.tsr.getLsbD (j - 1))) ∧
    (s.tx.thrFull = false → (strobes .evtBaud16 160 s).tx.txAct = false ∧
      (strobes .evtBaud16 160 s).tx.txd = true)

/-- R182, R188, R65: a transfer of N admitted bytes from an idle transmitter puts byte k into the shifter at strobe
160·k + 1, in address order; TXDONE comes with the last one and not before. -/
def Obligations.UartTransferSendsTheBuffer : Prop :=
  ∀ (s : State) (p : Addr) (n : BitVec 16) (bytes : Nat → Byte), StateInv s → s.hof.halted = false →
    s.tx.txBusy = false → s.tx.txAct = false → p.toNat + n.toNat ≤ 0xFFFFFFFF →
    (∀ k, k < n.toNat → memGet s.mem (p.toNat + k) = some (bytes k)) →
    ∀ k, k < n.toNat →
      let t := strobes .evtBaud16 (160 * k + 1) (after (.uartTx p n) s)
      t.hof.halted = false ∧ t.tx.tsr = bytes k ∧ t.tx.txAct = true ∧ t.tx.txBit = 0#4 ∧ t.tx.txPre = 0#4 ∧
        t.tx.txd = false ∧ t.tx.txCur.toNat = p.toNat + k + 1 ∧ t.tx.txBusy = decide (k + 1 < n.toNat) ∧
        t.hof.irqLat[1] = decide (k + 1 = n.toNat)

/-- R203: from the strobe that saw the start edge, the start bit is checked at strobe 8, data bit j is the level at
strobe 24 + 16·j, the stop bit the level at strobe 152, and the byte is queued at strobe 152 and not before. -/
def Obligations.ReceivedByteIsTheMidBitSamples : Prop :=
  ∀ (s : State) (l : Nat → Bool), StateInv s → s.hof.halted = false → s.rx.rxSt = .start → s.rx.rxCnt = 0#4 →
    s.tx.txBusy = false → s.tx.txAct = false → s.rx.rxq.count.toNat ≠ s.cfg.rxqCap →
    (l 8 = true → (rxRounds l 8 s).rx.rxSt = .idle) ∧
    (l 8 = false → (rxRounds l 151 s).rx.rxq = s.rx.rxq ∧ ∃ b : Byte,
      (∀ j : Fin 8, b[j] = l (24 + 16 * j.val)) ∧
      (rxRounds l 152 s).rx.rxSt = .idle ∧
      (rxRounds l 152 s).rx.fe = (s.rx.fe || !l 152) ∧
      queueList s.cfg.rxqCap (rxRounds l 152 s).rx.rxq = queueList s.cfg.rxqCap s.rx.rxq ++ [b])

/-- R205, R34: UART_RX_POP, as BTN_POP. -/
def Obligations.ReceivePopIsFifo : Prop :=
  (∀ w, decodeCmd64 w = .cmd .uartRxPop ↔ w = 0x2100000000000000#64) ∧
  ∀ s : State, s.hof.halted = false → 1 ≤ s.cfg.rxqCap → s.cfg.rxqCap ≤ 15 → QueueInv s.cfg.rxqCap s.rx.rxq →
    (s.rx.rxq.count = 0#4 → exec .uartRxPop s = .next { s with resp := 0#32 }) ∧
    (∀ c cs, queueList s.cfg.rxqCap s.rx.rxq = c :: cs → ∃ q,
      exec .uartRxPop s = .next { s with rx := { s.rx with rxq := q }, resp := 0x100#32 ||| c.setWidth 32 } ∧
      queueList s.cfg.rxqCap q = cs ∧ q.count.toNat + 1 = s.rx.rxq.count.toNat)

/-- R180: the two halves of the UART do not see each other: two running states that agree on the transmit half and on
memory agree on it after BAUD16, whatever is received; and two that agree on the receive half, the line and the
configuration agree on it after BAUD16 unless a transmit read faults. -/
def Obligations.UartHalvesAreIndependent : Prop :=
  ∀ s s' t t' : State, s.hof.halted = false → s'.hof.halted = false →
    exec .evtBaud16 s = .next t → exec .evtBaud16 s' = .next t' →
    (s.tx = s'.tx → s.mem = s'.mem → t.tx = t'.tx ∧ t.hof.halted = t'.hof.halted) ∧
    (s.rx = s'.rx → s.inp.rxd = s'.inp.rxd → s.cfg = s'.cfg → t.hof.halted = false → t'.hof.halted = false →
      t.rx = t'.rx)

/-- R194, R269: RXD and BUSEXT move their wires and nothing else, halted or not. -/
def Obligations.RxdAndBusextMoveWires : Prop :=
  (∀ h b, decodeEvt16 h = .event (.evtRxd b) ↔ h = (0x04#8 ++ 0#7 ++ BitVec.ofBool b : EvtWord)) ∧
  (∀ h c d, decodeEvt16 h = .event (.evtBusext c d) ↔
    h = (0x06#8 ++ 0#6 ++ BitVec.ofBool d ++ BitVec.ofBool c : EvtWord)) ∧
  ∀ (s : State) (b c d : Bool),
    exec (.evtRxd b) s = .next { s with inp := { s.inp with rxd := b } } ∧
    exec (.evtBusext c d) s = .next { s with inp := { s.inp with sclExt := c, sdaExt := d } }

/-! ## I2C -/

/-- R232: I2C_SETSA reports I2C_BUSY, then I2C_READ, else writes `msa`. -/
def Obligations.I2cSetsaWritesOrFaults : Prop :=
  (∀ w x, decodeCmd64 w = .cmd (.i2cSetsa x) ↔ w = (0x30#8 ++ x ++ 0#16 ++ 0#32 : CmdWord)) ∧
  ∀ (s : State) (x : Byte), s.hof.halted = false →
    let w : CmdWord := 0x30#8 ++ x ++ 0#16 ++ 0#32
    (s.i2c.i2cBusy = true → commandFaults (exec (.i2cSetsa x) s) s 0x06#8 w) ∧
    (s.i2c.i2cBusy = false → x[0] = true →
      commandFaults (exec (.i2cSetsa x) s) s 0x07#8 w) ∧
    (s.i2c.i2cBusy = false → x[0] = false →
      exec (.i2cSetsa x) s = .next { s with i2c := { s.i2c with msa := x }, resp := 0#32 })

/-- R233, R251: I2C_WRITE reports I2C_BUSY, then BUF_WRAP, else arms the transaction, reads no memory and waits for the
bus; STOP follows the control byte exactly if N = 0. -/
def Obligations.I2cWriteArmsOrFaults : Prop :=
  (∀ w x p n, decodeCmd64 w = .cmd (.i2cWrite x p n) ↔ w = (0x31#8 ++ x ++ n ++ p : CmdWord)) ∧
  ∀ (s : State) (x : Byte) (p : Addr) (n : BitVec 16), s.hof.halted = false →
    let w : CmdWord := 0x31#8 ++ x ++ n ++ p
    (s.i2c.i2cBusy = true →
      commandFaults (exec (.i2cWrite x p n) s) s 0x06#8 w) ∧
    (s.i2c.i2cBusy = false → 0xFFFFFFFF < p.toNat + n.toNat →
      commandFaults (exec (.i2cWrite x p n) s) s 0x05#8 w) ∧
    (s.i2c.i2cBusy = false → p.toNat + n.toNat ≤ 0xFFFFFFFF →
      exec (.i2cWrite x p n) s = .next { s with
        i2c := { s.i2c with
          i2cCur := p
          i2cEnd := BitVec.ofNat 32 (p.toNat + n.toNat)
          mdr := x
          i2cBusy := true
          pendStop := decide (n = 0#16)
          err := false
          adrack := false
          datack := false
          arblst := false
          seq := .waitbus
          ph := 0#2 }
        hof := { s.hof with irqLat := s.hof.irqLat &&& 0xF7#8 }
        resp := 0#32 })

/-- R234: I2C_WRITE_ONE reports I2C_BUSY, else arms a single-byte transaction whose cursor equals its end. -/
def Obligations.I2cWriteOneArmsOrFaults : Prop :=
  (∀ w x, decodeCmd64 w = .cmd (.i2cWriteOne x) ↔ w = (0x32#8 ++ x ++ 0#16 ++ 0#32 : CmdWord)) ∧
  ∀ (s : State) (x : Byte), s.hof.halted = false →
    (s.i2c.i2cBusy = true → commandFaults (exec (.i2cWriteOne x) s) s 0x06#8 (0x32#8 ++ x ++ 0#16 ++ 0#32)) ∧
    (s.i2c.i2cBusy = false → exec (.i2cWriteOne x) s = .next { s with
      i2c := { s.i2c with
        i2cCur := 0#32
        i2cEnd := 0#32
        mdr := x
        i2cBusy := true
        pendStop := true
        err := false
        adrack := false
        datack := false
        arblst := false
        seq := .waitbus
        ph := 0#2 }
      hof := { s.hof with irqLat := s.hof.irqLat &&& 0xF7#8 }
      resp := 0#32 })

/-- R235: I2C_WRITE with N = 0 and I2C_WRITE_ONE behave alike under every later sequence of stimuli and commands: the
two runs differ at most in the values left in `i2c_cur` and `i2c_end`. -/
def Obligations.EmptyWriteBehavesAsWriteOne : Prop :=
  ∀ (s : State) (x : Byte) (p : Addr) (is : List Instr), s.hof.halted = false → s.i2c.i2cBusy = false →
    let t := runAll is (after (.i2cWrite x p 0#16) s)
    let u := runAll is (after (.i2cWriteOne x) s)
    u = { t with i2c := { t.i2c with i2cCur := u.i2c.i2cCur, i2cEnd := u.i2c.i2cEnd } }

/-- R260 (IDLE, HOLD), R261, R262: an idle sequencer ignores I2CQ; WAITBUS starts exactly if both lines read 1; the
START slot pulls SDA low, holds two phases, pulls SCL low and loads the address byte. -/
def Obligations.WaitbusAndStartSlot : Prop :=
  ∀ s : State, s.hof.halted = false →
    (s.i2c.seq = .idle ∨ s.i2c.seq = .hold → exec .evtI2cq s = .next s) ∧
    (s.i2c.seq = .waitbus → exec .evtI2cq s =
      .next (if s.i2c.sclDrv = true ∧ s.inp.sclExt = true ∧ s.i2c.sdaDrv = true ∧ s.inp.sdaExt = true
        then { s with i2c := { s.i2c with seq := .start, ph := 0#2 } } else s)) ∧
    (s.i2c.seq = .start → s.i2c.ph = 0#2 →
      exec .evtI2cq s = .next { s with i2c := { s.i2c with sdaDrv := false, ph := 1#2 } }) ∧
    (s.i2c.seq = .start → s.i2c.ph = 1#2 → exec .evtI2cq s = .next { s with i2c := { s.i2c with ph := 2#2 } }) ∧
    (s.i2c.seq = .start → s.i2c.ph = 2#2 → exec .evtI2cq s = .next { s with i2c := { s.i2c with ph := 3#2 } }) ∧
    (s.i2c.seq = .start → s.i2c.ph = 3#2 → ∃ sh : Byte,
      (∀ j : Fin 8, sh[j] = (s.i2c.msa[j] && j != 0)) ∧
      exec .evtI2cq s = .next { s with i2c := { s.i2c with
        sclDrv := false, sh := sh, kind := .addr, bitn := 7#3, seq := .xmit, ph := 0#2 } })

/-- R263, R264, R267: the XMIT slot drives the bit while SCL is low, releases SCL, waits while SCL is stretched, and
then either samples the bit as sent or loses arbitration: both lines released, the transaction ended with an error. -/
def Obligations.XmitSlot : Prop :=
  ∀ s : State, s.hof.halted = false → s.i2c.seq = .xmit →
    let m := s.i2c
    let bit := m.sh.getLsbD m.bitn.toNat
    let scl := m.sclDrv && s.inp.sclExt
    let sda := m.sdaDrv && s.inp.sdaExt
    (m.ph = 0#2 → exec .evtI2cq s = .next { s with i2c := { m with sdaDrv := bit, ph := 1#2 } }) ∧
    (m.ph = 1#2 → exec .evtI2cq s = .next { s with i2c := { m with sclDrv := true, ph := 2#2 } }) ∧
    (m.ph = 2#2 → scl = false → exec .evtI2cq s = .next s) ∧
    (m.ph = 2#2 → scl = true → bit = true → sda = false → exec .evtI2cq s = .next { s with
      i2c := { m with
        sclDrv := true, sdaDrv := true, err := true, arblst := true, seq := .idle, ph := 0#2,
        i2cBusy := false, i2cRes := true }
      hof := { s.hof with irqLat := s.hof.irqLat ||| 0x08#8 } }) ∧
    (m.ph = 2#2 → scl = true → (bit = false ∨ sda = true) →
      exec .evtI2cq s = .next { s with i2c := { m with ph := 3#2 } }) ∧
    (m.ph = 3#2 → m.bitn = 0#3 →
      exec .evtI2cq s = .next { s with i2c := { m with sclDrv := false, ph := 0#2, seq := .ack } }) ∧
    (m.ph = 3#2 → m.bitn ≠ 0#3 →
      exec .evtI2cq s = .next { s with i2c := { m with sclDrv := false, ph := 0#2, bitn := m.bitn - 1#3 } })

/-- R265, R250, R251, R267: the ACK slot releases SDA, samples it, and then goes to STOP after a NACK or a last byte,
to the data byte after the address, or through MDONE to the next payload byte, read at the cursor. -/
def Obligations.AckSlot : Prop :=
  ∀ s : State, StateInv s → s.hof.halted = false → s.i2c.seq = .ack →
    let m := s.i2c
    let scl := m.sclDrv && s.inp.sclExt
    let sda := m.sdaDrv && s.inp.sdaExt
    let low : I2cm := { m with sclDrv := false, ph := 0#2 }
    (m.ph = 0#2 → exec .evtI2cq s = .next { s with i2c := { m with sdaDrv := true, ph := 1#2 } }) ∧
    (m.ph = 1#2 → exec .evtI2cq s = .next { s with i2c := { m with sclDrv := true, ph := 2#2 } }) ∧
    (m.ph = 2#2 → scl = false → exec .evtI2cq s = .next s) ∧
    (m.ph = 2#2 → scl = true → sda = false → exec .evtI2cq s = .next { s with i2c := { m with ph := 3#2 } }) ∧
    (m.ph = 2#2 → scl = true → sda = true → m.kind = .addr →
      exec .evtI2cq s = .next { s with i2c := { m with err := true, adrack := true, ph := 3#2 } }) ∧
    (m.ph = 2#2 → scl = true → sda = true → m.kind = .data →
      exec .evtI2cq s = .next { s with i2c := { m with err := true, datack := true, ph := 3#2 } }) ∧
    (m.ph = 3#2 → m.err = true → exec .evtI2cq s = .next { s with i2c := { low with seq := .stop } }) ∧
    (m.ph = 3#2 → m.err = false → m.kind = .addr → exec .evtI2cq s = .next { s with
      i2c := { low with sh := m.mdr, kind := .data, bitn := 7#3, seq := .xmit } }) ∧
    (m.ph = 3#2 → m.err = false → m.kind = .data → m.pendStop = true →
      exec .evtI2cq s = .next { s with i2c := { low with seq := .stop } }) ∧
    (∀ b, m.ph = 3#2 → m.err = false → m.kind = .data → m.pendStop = false →
      memGet s.mem m.i2cCur.toNat = some b → exec .evtI2cq s = .next { s with
        i2c := { low with
          mdr := b, sh := b, bitn := 7#3, seq := .xmit, i2cCur := m.i2cCur + 1#32,
          pendStop := decide (m.i2cCur + 1#32 = m.i2cEnd) } }) ∧
    (m.ph = 3#2 → m.err = false → m.kind = .data → m.pendStop = false → memGet s.mem m.i2cCur.toNat = none →
      stimulusFaults (exec .evtI2cq s) s 0x09#8 (m.i2cCur.setWidth 64))

/-- R266, R250, R267, R271: the STOP slot pulls SDA low, releases SCL, waits while it is stretched, releases SDA, and
ends the transaction with the result bit and I2CDONE. -/
def Obligations.StopSlot : Prop :=
  ∀ s : State, StateInv s → s.hof.halted = false → s.i2c.seq = .stop →
    let m := s.i2c
    let scl := m.sclDrv && s.inp.sclExt
    (m.ph = 0#2 → exec .evtI2cq s = .next { s with i2c := { m with sdaDrv := false, ph := 1#2 } }) ∧
    (m.ph = 1#2 → exec .evtI2cq s = .next { s with i2c := { m with sclDrv := true, ph := 2#2 } }) ∧
    (m.ph = 2#2 → scl = false → exec .evtI2cq s = .next s) ∧
    (m.ph = 2#2 → scl = true → exec .evtI2cq s = .next { s with i2c := { m with ph := 3#2 } }) ∧
    (m.ph = 3#2 → exec .evtI2cq s = .next { s with
      i2c := { m with sdaDrv := true, seq := .idle, ph := 0#2, i2cBusy := false, i2cRes := m.err }
      hof := { s.hof with irqLat := s.hof.irqLat ||| 0x08#8 } })

/-- R94, R95, R263: on a free bus the eight bits of a byte go out most significant first, four strobes each: the bit is
on SDA from the first strobe of its slot to the last, SCL is released in the middle two, and after 32 strobes the ACK
slot begins. -/
def Obligations.I2cByteOnTheWire : Prop :=
  ∀ s : State, StateInv s → s.hof.halted = false → s.i2c.seq = .xmit → s.i2c.ph = 0#2 → s.i2c.bitn = 7#3 →
    s.inp.sclExt = true → s.inp.sdaExt = true →
    (∀ b k : Nat, b ≤ 7 → 1 ≤ k → k ≤ 4 →
      let t := strobes .evtI2cq (4 * b + k) s
      t.i2c.sdaDrv = s.i2c.sh.getLsbD (7 - b) ∧ (t.i2c.sclDrv = true ↔ k = 2 ∨ k = 3)) ∧
    (strobes .evtI2cq 32 s).i2c.seq = .ack ∧ (strobes .evtI2cq 32 s).i2c.ph = 0#2

/-- R94, over the whole instruction set: the block changes its drive of SDA only while it drives SCL low before and
after, or to make a START (SDA falls in the START slot) or a STOP (SDA rises in the STOP slot); RESET alone is excepted
(R358). -/
def Obligations.SdaMovesOnlyUnderLowScl : Prop :=
  ∀ (i : Instr) (s t : State), StateInv s → exec i s = .next t → i ≠ .evtReset →
    t.i2c.sdaDrv = s.i2c.sdaDrv ∨
    (s.i2c.sclDrv = false ∧ t.i2c.sclDrv = false) ∨
    (s.i2c.seq = .start ∧ s.i2c.sdaDrv = true ∧ t.i2c.sdaDrv = false ∧ s.i2c.sclDrv = true ∧ t.i2c.sclDrv = true) ∨
    (s.i2c.seq = .stop ∧ s.i2c.sdaDrv = false ∧ t.i2c.sdaDrv = true ∧ s.i2c.sclDrv = true ∧ t.i2c.sclDrv = true)

/-! ## Reset, flags, quiet states -/

/-- R340: RESET from any state, halted or not, writes every field's reset value and keeps the input wires, the
configuration and the memory. Not stated: the entries of the empty queues, which the spec leaves open (log entry 7),
and the model's own fields. -/
def Obligations.ResetWritesTheResetValues : Prop :=
  (∀ h, decodeEvt16 h = .event .evtReset ↔ h = 0x0700#16) ∧
  ∀ s : State, ∃ t, exec .evtReset s = .next t ∧
    t.hof = { halted := false, faultCode := 0#8, faultInfo := 0#64, irqEn := 0#8, irqLat := 0#8 } ∧
    t.deb.edgePend = 0#8 ∧ (∀ i : Fin 8, t.deb.rem[i] = 0#8 ∧ t.deb.vote[i] = 0#8) ∧
    t.deb.btnq.head = 0#4 ∧ t.deb.btnq.count = 0#4 ∧
    t.tx = { txBusy := false, txCur := 0#32, txEnd := 0#32, thr := 0#8, thrFull := false, tsr := 0#8,
             txAct := false, txBit := 0#4, txPre := 0#4, txd := true } ∧
    t.rx.rxPrev = s.inp.rxd ∧ t.rx.rxSt = .idle ∧ t.rx.rxCnt = 0#4 ∧ t.rx.rxBit = 0#3 ∧ t.rx.rxSh = 0#8 ∧
    t.rx.fe = false ∧ t.rx.oe = false ∧ t.rx.rxq.head = 0#4 ∧ t.rx.rxq.count = 0#4 ∧
    t.i2c = { msa := 0#8, i2cBusy := false, i2cCur := 0#32, i2cEnd := 0#32, i2cRes := false, mdr := 0#8,
              seq := .idle, ph := 0#2, bitn := 7#3, sh := 0#8, kind := .addr, pendStop := false, err := false,
              adrack := false, datack := false, arblst := false, sclDrv := true, sdaDrv := true } ∧
    t.inp = s.inp ∧ t.cfg = s.cfg ∧ t.mem = s.mem

/-- R341: what every read answers right after RESET, from any state, and the output lines. -/
def Obligations.ReadsAfterReset : Prop :=
  ∀ s : State, ∃ t, exec .evtReset s = .next t ∧
    exec .status t = .next { t with resp := 0#32 } ∧
    exec .xstatus t = .next { t with resp := 0x20#32 } ∧
    (∀ h, exec (.faultInfo h) t = .next { t with resp := 0#32 }) ∧
    exec .btnPop t = .next { t with resp := 0#32 } ∧
    exec .uartRxPop t = .next { t with resp := 0#32 } ∧
    (∀ pin, exec (.debPeek pin) t = .next { t with resp := 0#32 }) ∧
    irqLine t = false ∧ t.tx.txd = true ∧ t.i2c.sclDrv = true ∧ t.i2c.sdaDrv = true

/-- R40, R42, R121, R311: each latch, error flag and busy flag rises and falls only by the events its row names. CMD(w)
is left out: it is the command w (CommandPortDispatches). -/
def Obligations.LatchesMoveOnlyByTheirEvents : Prop :=
  ∀ (i : Instr) (s t : State), exec i s = .next t → (∀ w, i ≠ .evtCmd w) →
    (s.hof.irqLat[1] = false → t.hof.irqLat[1] = true → i = .evtBaud16) ∧
    (s.hof.irqLat[1] = true → t.hof.irqLat[1] = false →
      i = .evtReset ∨ (∃ p n, i = .uartTx p n) ∨ ∃ m, i = .irqClr m ∧ m[1] = true) ∧
    (s.hof.irqLat[3] = false → t.hof.irqLat[3] = true → i = .evtI2cq) ∧
    (s.hof.irqLat[3] = true → t.hof.irqLat[3] = false → i = .evtReset ∨ (∃ c p n, i = .i2cWrite c p n) ∨
      (∃ b, i = .i2cWriteOne b) ∨ ∃ m, i = .irqClr m ∧ m[3] = true) ∧
    (s.hof.irqLat[4] = false → t.hof.irqLat[4] = true → i = .evtBaud16) ∧
    (s.hof.irqLat[4] = true → t.hof.irqLat[4] = false → i = .evtReset ∨ ∃ m, i = .irqClr m ∧ m[4] = true) ∧
    (s.rx.fe = false → t.rx.fe = true → i = .evtBaud16) ∧
    (s.rx.fe = true → t.rx.fe = false → i = .evtReset ∨ ∃ m, i = .irqClr m ∧ m[4] = true) ∧
    (s.rx.oe = false → t.rx.oe = true → i = .evtBaud16) ∧
    (s.rx.oe = true → t.rx.oe = false → i = .evtReset ∨ ∃ m, i = .irqClr m ∧ m[4] = true) ∧
    (t.i2c.i2cRes ≠ s.i2c.i2cRes → i = .evtI2cq ∨ i = .evtReset) ∧
    (s.tx.txBusy = false → t.tx.txBusy = true → ∃ p n, i = .uartTx p n) ∧
    (s.tx.txBusy = true → t.tx.txBusy = false → i = .evtBaud16 ∨ i = .evtReset) ∧
    (s.i2c.i2cBusy = false → t.i2c.i2cBusy = true → (∃ c p n, i = .i2cWrite c p n) ∨ ∃ b, i = .i2cWriteOne b) ∧
    (s.i2c.i2cBusy = true → t.i2c.i2cBusy = false → i = .evtI2cq ∨ i = .evtReset) ∧
    (∀ flag ∈ [I2cm.err, I2cm.adrack, I2cm.datack, I2cm.arblst],
      (flag s.i2c = false → flag t.i2c = true → i = .evtI2cq) ∧
      (flag s.i2c = true → flag t.i2c = false → i = .evtReset ∨ (∃ c p n, i = .i2cWrite c p n) ∨
        ∃ b, i = .i2cWriteOne b))

/-- R318, R344: in a quiescent state with the line high, TICK and I2CQ change nothing and BAUD16 nothing but `rx_prev`.
-/
def Obligations.QuiescentBlockIgnoresStrobes : Prop :=
  ∀ s : State, StateInv s → quiescent s = true → s.inp.rxd = true →
    exec .evtTick s = .next s ∧ exec .evtI2cq s = .next s ∧
    exec .evtBaud16 s = .next { s with rx := { s.rx with rxPrev := true } }

/-! ## The host's side -/

/-- R206 (a host procedure that returns what it copied as a list, log entry 18): `read_until` issues UART_RX_POP while
fewer than max characters are copied; fed the characters of a line and its delimiter, it copies the characters and
drops the delimiter; with max characters and no delimiter it stops at max and pops no more; a pop that is not valid is
only repeated. -/
def Obligations.ReadUntilCopiesUpToTheDelimiter : Prop :=
  ∀ (max : Nat) (delim : Byte) (line : List Byte), delim ∉ line →
    (line.length < max → hostFeed (uartReadUntil max delim) ((line ++ [delim]).map popValid) =
      .finished (.read line.length line)) ∧
    (line.length < max → hostAction (hostFeed (uartReadUntil max delim) (line.map popValid)) = .issue .uartRxPop) ∧
    (line.length = max → hostAction (hostFeed (uartReadUntil max delim) (line.map popValid)) =
      .done (.read max line)) ∧
    (line.length < max → hostFeed (uartReadUntil max delim) (line.map popValid ++ [0#32]) =
      hostFeed (uartReadUntil max delim) (line.map popValid))

/-- R99, the expansions (host procedures, log entry 18). BTN_WAIT repeats BTN_POP until bit 8 is 1 and returns the
mask; UART_WRITE polls STATUS until bit 8 is 0; I2C_XFER sets the address, starts, polls until bit 10 is 0 and returns
the inverse of bit 11; I2C_SEND1 is I2C_XFER with I2C_WRITE_ONE in its place. `n` is any number of polls that find the
unit busy. -/
def Obligations.HostProceduresFollowTheirExpansions : Prop :=
  ∀ (n : Nat) (m ctrl : Byte) (p : Addr) (len : BitVec 16) (a : BitVec 7) (busy last : Resp),
    hostAction (hostFeed btnWait (List.replicate n 0#32)) = .issue .btnPop ∧
    hostFeed btnWait (List.replicate n 0#32 ++ [popValid m]) = .finished (.mask m) ∧
    (busy[8] = true → last[8] = false →
      hostAction (uartWrite p len) = .issue (.uartTx p len) ∧
      hostAction (hostFeed (uartWrite p len) (0#32 :: List.replicate n busy)) = .issue .status ∧
      hostAction (hostFeed (uartWrite p len) (0#32 :: List.replicate n busy ++ [last])) = .issue (.irqClr 0x02) ∧
      hostFeed (uartWrite p len) (0#32 :: List.replicate n busy ++ [last, 0#32]) = .finished .written) ∧
    (busy[10] = true → last[10] = false →
      (∃ x : Byte, x[0] = false ∧ x.toNat = 2 * a.toNat ∧
        hostAction (i2cXfer ctrl p len a) = .issue (.i2cSetsa x)) ∧
      hostAction (hostFeed (i2cXfer ctrl p len a) [0#32]) = .issue (.i2cWrite ctrl p len) ∧
      hostAction (hostFeed (i2cXfer ctrl p len a) (0#32 :: 0#32 :: List.replicate n busy)) = .issue .status ∧
      hostFeed (i2cXfer ctrl p len a) (0#32 :: 0#32 :: List.replicate n busy ++ [last, 0#32]) =
        .finished (.acked (!last[11])) ∧
      hostAction (hostFeed (i2cXfer ctrl p len a) (0#32 :: 0#32 :: List.replicate n busy ++ [last])) =
        .issue (.irqClr 0x08)) ∧
    (∀ (b : Byte) (rs : List Resp), hostAction (i2cSend1 b a) = hostAction (i2cXfer ctrl p len a) ∧
      hostAction (hostFeed (i2cSend1 b a) [0#32]) = .issue (.i2cWriteOne b) ∧
      hostFeed (i2cSend1 b a) (0#32 :: 0#32 :: rs) = hostFeed (i2cXfer ctrl p len a) (0#32 :: 0#32 :: rs))

/-- The assembler accepts the line, and the block decodes its word to the command. -/
def assemblesTo (l : AsmLine) (c : Command) : Prop := ∃ w, assemble l = .ok w ∧ decodeCmd64 w = .cmd c

/-- R98, R81: every line whose operands fit their fields assembles to a word that decodes to its command with its
operands (I2C_SETSA to the shifted address with R/S 0; a mask with bit 5 or 6 set to a word the block faults), and a
line with an operand outside its field is refused. The name of the refusal, the order in which operands are checked and
the 8-bit field of a mask are the model's (DESIGN CHOICE, log entry 18). -/
def Obligations.AssembledWordsCarryTheirOperands : Prop :=
  (assemblesTo .nop .nop ∧ assemblesTo .status .status ∧ assemblesTo .xstatus .xstatus ∧ assemblesTo .btnPop .btnPop ∧
    assemblesTo .uartRxPop .uartRxPop) ∧
  (∀ a : Nat, (a < 8 → ∃ pin, assemblesTo (.debPeek a) (.debPeek pin) ∧ pin.toNat = a) ∧
    (8 ≤ a → assemble (.debPeek a) = .error (.doesNotFit a))) ∧
  (∀ a : Nat, (a < 256 → ∃ w m, assemble (.irqEn a) = .ok w ∧ m.toNat = a ∧
      decodeCmd64 w = if m &&& 0x60#8 = 0#8 then .cmd (.irqEn m) else .reserved 0x04#8) ∧
    (256 ≤ a → assemble (.irqEn a) = .error (.doesNotFit a))) ∧
  (∀ a : Nat, (a < 256 → ∃ w m, assemble (.irqClr a) = .ok w ∧ m.toNat = a ∧
      decodeCmd64 w = if m &&& 0x60#8 = 0#8 then .cmd (.irqClr m) else .reserved 0x05#8) ∧
    (256 ≤ a → assemble (.irqClr a) = .error (.doesNotFit a))) ∧
  (∀ a : Nat, (a < 2 → ∃ half, assemblesTo (.faultInfo a) (.faultInfo half) ∧ half.toNat = a) ∧
    (2 ≤ a → assemble (.faultInfo a) = .error (.doesNotFit a))) ∧
  (∀ p n : Nat, (p < 2 ^ 32 → n < 2 ^ 16 → ∃ q k, assemblesTo (.uartTx p n) (.uartTx q k) ∧ q.toNat = p ∧ k.toNat = n) ∧
    (2 ^ 32 ≤ p → assemble (.uartTx p n) = .error (.doesNotFit p)) ∧
    (p < 2 ^ 32 → 2 ^ 16 ≤ n → assemble (.uartTx p n) = .error (.doesNotFit n))) ∧
  (∀ a : Nat, (a < 128 → ∃ m, assemblesTo (.i2cSetsa a) (.i2cSetsa m) ∧ m.toNat = 2 * a ∧ m[0] = false) ∧
    (128 ≤ a → assemble (.i2cSetsa a) = .error (.doesNotFit a))) ∧
  (∀ c p n : Nat, (c < 256 → p < 2 ^ 32 → n < 2 ^ 16 → ∃ x q k, assemblesTo (.i2cWrite c p n) (.i2cWrite x q k) ∧
      x.toNat = c ∧ q.toNat = p ∧ k.toNat = n) ∧
    (256 ≤ c → assemble (.i2cWrite c p n) = .error (.doesNotFit c)) ∧
    (c < 256 → 2 ^ 32 ≤ p → assemble (.i2cWrite c p n) = .error (.doesNotFit p)) ∧
    (c < 256 → p < 2 ^ 32 → 2 ^ 16 ≤ n → assemble (.i2cWrite c p n) = .error (.doesNotFit n))) ∧
  (∀ a : Nat, (a < 256 → ∃ b, assemblesTo (.i2cWriteOne a) (.i2cWriteOne b) ∧ b.toNat = a) ∧
    (256 ≤ a → assemble (.i2cWriteOne a) = .error (.doesNotFit a)))
end

