-- ==== Sys2Proof/Laws/Encoding.lean ====
section
/-! SUPPORT. The fields of a packed word, and a word packed from its fields (30_encoding.md R80, R91). -/

namespace Sys2Proof

@[simp] theorem cmdOp_packCmd (op x : Byte) (n : BitVec 16) (p : Addr) : cmdOp (packCmd op x n p) = op := by
  show ((op ++ x ++ n ++ p : BitVec (8 + 8 + 16 + 32)).extractLsb' 56 8) = op
  rw [BitVec.extractLsb'_append_eq_of_le (by decide), BitVec.extractLsb'_append_eq_of_le (by decide)]
  exact BitVec.extractLsb'_append_eq_left

@[simp] theorem cmdX_packCmd (op x : Byte) (n : BitVec 16) (p : Addr) : cmdX (packCmd op x n p) = x := by
  show ((op ++ x ++ n ++ p : BitVec (8 + 8 + 16 + 32)).extractLsb' 48 8) = x
  rw [BitVec.extractLsb'_append_eq_of_le (by decide), BitVec.extractLsb'_append_eq_of_le (by decide)]
  exact BitVec.extractLsb'_append_eq_right

@[simp] theorem cmdN_packCmd (op x : Byte) (n : BitVec 16) (p : Addr) : cmdN (packCmd op x n p) = n := by
  show ((op ++ x ++ n ++ p : BitVec (8 + 8 + 16 + 32)).extractLsb' 32 16) = n
  rw [BitVec.extractLsb'_append_eq_of_le (by decide)]
  exact BitVec.extractLsb'_append_eq_right

@[simp] theorem cmdP_packCmd (op x : Byte) (n : BitVec 16) (p : Addr) : cmdP (packCmd op x n p) = p := by
  show ((op ++ x ++ n ++ p : BitVec (8 + 8 + 16 + 32)).extractLsb' 0 32) = p
  exact BitVec.extractLsb'_append_eq_right

/-- A word is its four fields. -/
theorem packCmd_fields (w : CmdWord) : packCmd (cmdOp w) (cmdX w) (cmdN w) (cmdP w) = w := by
  show (cmdOp w ++ cmdX w ++ cmdN w ++ cmdP w : BitVec (8 + 8 + 16 + 32)) = w
  ext i hi
  simp only [BitVec.getElem_append, cmdOp, cmdX, cmdN, cmdP, BitVec.getElem_extractLsb']
  have e : w[i] = w.getLsbD i := (BitVec.getLsbD_eq_getElem hi).symm
  rw [e]
  split
  · simp
  · split
    · congr 1
      omega
    · split <;> congr 1 <;> omega

/-- Masking is field by field. -/
theorem packCmd_and (op x op' x' : Byte) (n n' : BitVec 16) (p p' : Addr) :
    packCmd op x n p &&& packCmd op' x' n' p' = packCmd (op &&& op') (x &&& x') (n &&& n') (p &&& p') := by
  show (op ++ x ++ n ++ p : BitVec (8 + 8 + 16 + 32)) &&& (op' ++ x' ++ n' ++ p') = _
  rw [BitVec.and_append, BitVec.and_append, BitVec.and_append]
  rfl

/-- Two packed words are equal exactly field by field. -/
theorem packCmd_inj {op x op' x' : Byte} {n n' : BitVec 16} {p p' : Addr} :
    packCmd op x n p = packCmd op' x' n' p' ↔ op = op' ∧ x = x' ∧ n = n' ∧ p = p' := by
  constructor
  · intro h
    refine ⟨?_, ?_, ?_, ?_⟩
    · simpa using congrArg cmdOp h
    · simpa using congrArg cmdX h
    · simpa using congrArg cmdN h
    · simpa using congrArg cmdP h
  · rintro ⟨rfl, rfl, rfl, rfl⟩
    rfl

@[simp] theorem evtTag_packEvt (t v : Byte) : evtTag (packEvt t v) = t :=
  BitVec.extractLsb'_append_eq_left

@[simp] theorem evtPayload_packEvt (t v : Byte) : evtPayload (packEvt t v) = v :=
  BitVec.extractLsb'_append_eq_right

theorem packEvt_and (t v t' v' : Byte) : packEvt t v &&& packEvt t' v' = packEvt (t &&& t') (v &&& v') := by
  show (t ++ v : BitVec (8 + 8)) &&& (t' ++ v') = _
  rw [BitVec.and_append]
  rfl

end Sys2Proof
end

