-- ==== Sys2Proof/Laws/State.lean ====
section
/-! SUPPORT. One lemma per field per update of the state, so that no later proof unfolds a record update. -/

namespace Sys2Proof.Machine

variable (s : State)

@[simp] theorem State.respond_hof (v : Resp) : (s.respond v).hof = s.hof := rfl
@[simp] theorem State.respond_deb (v : Resp) : (s.respond v).deb = s.deb := rfl
@[simp] theorem State.respond_tx (v : Resp) : (s.respond v).tx = s.tx := rfl
@[simp] theorem State.respond_rx (v : Resp) : (s.respond v).rx = s.rx := rfl
@[simp] theorem State.respond_i2c (v : Resp) : (s.respond v).i2c = s.i2c := rfl
@[simp] theorem State.respond_inp (v : Resp) : (s.respond v).inp = s.inp := rfl
@[simp] theorem State.respond_cfg (v : Resp) : (s.respond v).cfg = s.cfg := rfl
@[simp] theorem State.respond_mem (v : Resp) : (s.respond v).mem = s.mem := rfl
@[simp] theorem State.respond_resp (v : Resp) : (s.respond v).resp = v := rfl
@[simp] theorem State.respond_pending (v : Resp) : (s.respond v).pending = s.pending := rfl
@[simp] theorem State.respond_position (v : Resp) : (s.respond v).position = s.position := rfl
@[simp] theorem State.respond_faultLog (v : Resp) : (s.respond v).faultLog = s.faultLog := rfl

@[simp] theorem State.setHof_hof (h : Hof) : (s.setHof h).hof = h := rfl
@[simp] theorem State.setHof_deb (h : Hof) : (s.setHof h).deb = s.deb := rfl
@[simp] theorem State.setHof_tx (h : Hof) : (s.setHof h).tx = s.tx := rfl
@[simp] theorem State.setHof_rx (h : Hof) : (s.setHof h).rx = s.rx := rfl
@[simp] theorem State.setHof_i2c (h : Hof) : (s.setHof h).i2c = s.i2c := rfl
@[simp] theorem State.setHof_inp (h : Hof) : (s.setHof h).inp = s.inp := rfl
@[simp] theorem State.setHof_cfg (h : Hof) : (s.setHof h).cfg = s.cfg := rfl
@[simp] theorem State.setHof_mem (h : Hof) : (s.setHof h).mem = s.mem := rfl
@[simp] theorem State.setHof_resp (h : Hof) : (s.setHof h).resp = s.resp := rfl
@[simp] theorem State.setHof_pending (h : Hof) : (s.setHof h).pending = s.pending := rfl
@[simp] theorem State.setHof_position (h : Hof) : (s.setHof h).position = s.position := rfl
@[simp] theorem State.setHof_faultLog (h : Hof) : (s.setHof h).faultLog = s.faultLog := rfl

@[simp] theorem State.setDeb_hof (d : Deb) : (s.setDeb d).hof = s.hof := rfl
@[simp] theorem State.setDeb_deb (d : Deb) : (s.setDeb d).deb = d := rfl
@[simp] theorem State.setDeb_tx (d : Deb) : (s.setDeb d).tx = s.tx := rfl
@[simp] theorem State.setDeb_rx (d : Deb) : (s.setDeb d).rx = s.rx := rfl
@[simp] theorem State.setDeb_i2c (d : Deb) : (s.setDeb d).i2c = s.i2c := rfl
@[simp] theorem State.setDeb_inp (d : Deb) : (s.setDeb d).inp = s.inp := rfl
@[simp] theorem State.setDeb_cfg (d : Deb) : (s.setDeb d).cfg = s.cfg := rfl
@[simp] theorem State.setDeb_mem (d : Deb) : (s.setDeb d).mem = s.mem := rfl
@[simp] theorem State.setDeb_resp (d : Deb) : (s.setDeb d).resp = s.resp := rfl
@[simp] theorem State.setDeb_pending (d : Deb) : (s.setDeb d).pending = s.pending := rfl
@[simp] theorem State.setDeb_position (d : Deb) : (s.setDeb d).position = s.position := rfl
@[simp] theorem State.setDeb_faultLog (d : Deb) : (s.setDeb d).faultLog = s.faultLog := rfl

@[simp] theorem State.setTx_hof (t : UartTx) : (s.setTx t).hof = s.hof := rfl
@[simp] theorem State.setTx_deb (t : UartTx) : (s.setTx t).deb = s.deb := rfl
@[simp] theorem State.setTx_tx (t : UartTx) : (s.setTx t).tx = t := rfl
@[simp] theorem State.setTx_rx (t : UartTx) : (s.setTx t).rx = s.rx := rfl
@[simp] theorem State.setTx_i2c (t : UartTx) : (s.setTx t).i2c = s.i2c := rfl
@[simp] theorem State.setTx_inp (t : UartTx) : (s.setTx t).inp = s.inp := rfl
@[simp] theorem State.setTx_cfg (t : UartTx) : (s.setTx t).cfg = s.cfg := rfl
@[simp] theorem State.setTx_mem (t : UartTx) : (s.setTx t).mem = s.mem := rfl
@[simp] theorem State.setTx_resp (t : UartTx) : (s.setTx t).resp = s.resp := rfl
@[simp] theorem State.setTx_pending (t : UartTx) : (s.setTx t).pending = s.pending := rfl
@[simp] theorem State.setTx_position (t : UartTx) : (s.setTx t).position = s.position := rfl
@[simp] theorem State.setTx_faultLog (t : UartTx) : (s.setTx t).faultLog = s.faultLog := rfl

@[simp] theorem State.setRx_hof (r : UartRx) : (s.setRx r).hof = s.hof := rfl
@[simp] theorem State.setRx_deb (r : UartRx) : (s.setRx r).deb = s.deb := rfl
@[simp] theorem State.setRx_tx (r : UartRx) : (s.setRx r).tx = s.tx := rfl
@[simp] theorem State.setRx_rx (r : UartRx) : (s.setRx r).rx = r := rfl
@[simp] theorem State.setRx_i2c (r : UartRx) : (s.setRx r).i2c = s.i2c := rfl
@[simp] theorem State.setRx_inp (r : UartRx) : (s.setRx r).inp = s.inp := rfl
@[simp] theorem State.setRx_cfg (r : UartRx) : (s.setRx r).cfg = s.cfg := rfl
@[simp] theorem State.setRx_mem (r : UartRx) : (s.setRx r).mem = s.mem := rfl
@[simp] theorem State.setRx_resp (r : UartRx) : (s.setRx r).resp = s.resp := rfl
@[simp] theorem State.setRx_pending (r : UartRx) : (s.setRx r).pending = s.pending := rfl
@[simp] theorem State.setRx_position (r : UartRx) : (s.setRx r).position = s.position := rfl
@[simp] theorem State.setRx_faultLog (r : UartRx) : (s.setRx r).faultLog = s.faultLog := rfl

@[simp] theorem State.setI2c_hof (m : I2cm) : (s.setI2c m).hof = s.hof := rfl
@[simp] theorem State.setI2c_deb (m : I2cm) : (s.setI2c m).deb = s.deb := rfl
@[simp] theorem State.setI2c_tx (m : I2cm) : (s.setI2c m).tx = s.tx := rfl
@[simp] theorem State.setI2c_rx (m : I2cm) : (s.setI2c m).rx = s.rx := rfl
@[simp] theorem State.setI2c_i2c (m : I2cm) : (s.setI2c m).i2c = m := rfl
@[simp] theorem State.setI2c_inp (m : I2cm) : (s.setI2c m).inp = s.inp := rfl
@[simp] theorem State.setI2c_cfg (m : I2cm) : (s.setI2c m).cfg = s.cfg := rfl
@[simp] theorem State.setI2c_mem (m : I2cm) : (s.setI2c m).mem = s.mem := rfl
@[simp] theorem State.setI2c_resp (m : I2cm) : (s.setI2c m).resp = s.resp := rfl
@[simp] theorem State.setI2c_pending (m : I2cm) : (s.setI2c m).pending = s.pending := rfl
@[simp] theorem State.setI2c_position (m : I2cm) : (s.setI2c m).position = s.position := rfl
@[simp] theorem State.setI2c_faultLog (m : I2cm) : (s.setI2c m).faultLog = s.faultLog := rfl

@[simp] theorem State.setInp_hof (i : Inputs) : (s.setInp i).hof = s.hof := rfl
@[simp] theorem State.setInp_deb (i : Inputs) : (s.setInp i).deb = s.deb := rfl
@[simp] theorem State.setInp_tx (i : Inputs) : (s.setInp i).tx = s.tx := rfl
@[simp] theorem State.setInp_rx (i : Inputs) : (s.setInp i).rx = s.rx := rfl
@[simp] theorem State.setInp_i2c (i : Inputs) : (s.setInp i).i2c = s.i2c := rfl
@[simp] theorem State.setInp_inp (i : Inputs) : (s.setInp i).inp = i := rfl
@[simp] theorem State.setInp_cfg (i : Inputs) : (s.setInp i).cfg = s.cfg := rfl
@[simp] theorem State.setInp_mem (i : Inputs) : (s.setInp i).mem = s.mem := rfl
@[simp] theorem State.setInp_resp (i : Inputs) : (s.setInp i).resp = s.resp := rfl
@[simp] theorem State.setInp_pending (i : Inputs) : (s.setInp i).pending = s.pending := rfl
@[simp] theorem State.setInp_position (i : Inputs) : (s.setInp i).position = s.position := rfl
@[simp] theorem State.setInp_faultLog (i : Inputs) : (s.setInp i).faultLog = s.faultLog := rfl

@[simp] theorem State.setMem_hof (m : Memory) : (s.setMem m).hof = s.hof := rfl
@[simp] theorem State.setMem_deb (m : Memory) : (s.setMem m).deb = s.deb := rfl
@[simp] theorem State.setMem_tx (m : Memory) : (s.setMem m).tx = s.tx := rfl
@[simp] theorem State.setMem_rx (m : Memory) : (s.setMem m).rx = s.rx := rfl
@[simp] theorem State.setMem_i2c (m : Memory) : (s.setMem m).i2c = s.i2c := rfl
@[simp] theorem State.setMem_inp (m : Memory) : (s.setMem m).inp = s.inp := rfl
@[simp] theorem State.setMem_cfg (m : Memory) : (s.setMem m).cfg = s.cfg := rfl
@[simp] theorem State.setMem_mem (m : Memory) : (s.setMem m).mem = m := rfl
@[simp] theorem State.setMem_resp (m : Memory) : (s.setMem m).resp = s.resp := rfl
@[simp] theorem State.setMem_pending (m : Memory) : (s.setMem m).pending = s.pending := rfl
@[simp] theorem State.setMem_position (m : Memory) : (s.setMem m).position = s.position := rfl
@[simp] theorem State.setMem_faultLog (m : Memory) : (s.setMem m).faultLog = s.faultLog := rfl

@[simp] theorem State.consume_hof (rest : List TraceItem) (used : Nat) : (s.consume rest used).hof = s.hof := rfl
@[simp] theorem State.consume_deb (rest : List TraceItem) (used : Nat) : (s.consume rest used).deb = s.deb := rfl
@[simp] theorem State.consume_tx (rest : List TraceItem) (used : Nat) : (s.consume rest used).tx = s.tx := rfl
@[simp] theorem State.consume_rx (rest : List TraceItem) (used : Nat) : (s.consume rest used).rx = s.rx := rfl
@[simp] theorem State.consume_i2c (rest : List TraceItem) (used : Nat) : (s.consume rest used).i2c = s.i2c := rfl
@[simp] theorem State.consume_inp (rest : List TraceItem) (used : Nat) : (s.consume rest used).inp = s.inp := rfl
@[simp] theorem State.consume_cfg (rest : List TraceItem) (used : Nat) : (s.consume rest used).cfg = s.cfg := rfl
@[simp] theorem State.consume_mem (rest : List TraceItem) (used : Nat) : (s.consume rest used).mem = s.mem := rfl
@[simp] theorem State.consume_resp (rest : List TraceItem) (used : Nat) : (s.consume rest used).resp = s.resp := rfl
@[simp] theorem State.consume_pending (rest : List TraceItem) (used : Nat) : (s.consume rest used).pending = rest := rfl
@[simp] theorem State.consume_position (rest : List TraceItem) (used : Nat) : (s.consume rest used).position = s.position + used := rfl
@[simp] theorem State.consume_faultLog (rest : List TraceItem) (used : Nat) : (s.consume rest used).faultLog = s.faultLog := rfl

@[simp] theorem takeFault_hof (f : FaultRecord) :
    (takeFault s f).hof = { s.hof with halted := true, faultCode := f.code.bits, faultInfo := f.info } := rfl
@[simp] theorem takeFault_deb (f : FaultRecord) : (takeFault s f).deb = s.deb := rfl
@[simp] theorem takeFault_tx (f : FaultRecord) : (takeFault s f).tx = s.tx := rfl
@[simp] theorem takeFault_rx (f : FaultRecord) : (takeFault s f).rx = s.rx := rfl
@[simp] theorem takeFault_i2c (f : FaultRecord) : (takeFault s f).i2c = s.i2c := rfl
@[simp] theorem takeFault_inp (f : FaultRecord) : (takeFault s f).inp = s.inp := rfl
@[simp] theorem takeFault_cfg (f : FaultRecord) : (takeFault s f).cfg = s.cfg := rfl
@[simp] theorem takeFault_mem (f : FaultRecord) : (takeFault s f).mem = s.mem := rfl
@[simp] theorem takeFault_resp (f : FaultRecord) : (takeFault s f).resp = s.resp := rfl
@[simp] theorem takeFault_pending (f : FaultRecord) : (takeFault s f).pending = s.pending := rfl
@[simp] theorem takeFault_position (f : FaultRecord) : (takeFault s f).position = s.position := rfl
@[simp] theorem takeFault_faultLog (f : FaultRecord) : (takeFault s f).faultLog = f :: s.faultLog := rfl

@[simp] theorem resetBlock_hof : (resetBlock s).hof = Hof.reset := rfl
@[simp] theorem resetBlock_deb : (resetBlock s).deb = Deb.reset := rfl
@[simp] theorem resetBlock_tx : (resetBlock s).tx = UartTx.reset := rfl
@[simp] theorem resetBlock_rx : (resetBlock s).rx = UartRx.reset s.inp.rxd := rfl
@[simp] theorem resetBlock_i2c : (resetBlock s).i2c = I2cm.reset := rfl
@[simp] theorem resetBlock_inp : (resetBlock s).inp = s.inp := rfl
@[simp] theorem resetBlock_cfg : (resetBlock s).cfg = s.cfg := rfl
@[simp] theorem resetBlock_mem : (resetBlock s).mem = s.mem := rfl
@[simp] theorem resetBlock_resp : (resetBlock s).resp = s.resp := rfl
@[simp] theorem resetBlock_pending : (resetBlock s).pending = s.pending := rfl
@[simp] theorem resetBlock_position : (resetBlock s).position = s.position := rfl
@[simp] theorem resetBlock_faultLog : (resetBlock s).faultLog = s.faultLog := rfl

end Sys2Proof.Machine
end

