-- ==== Sys2Proof/Laws/Memory.lean ====
section
/-! SUPPORT. The memory operations: read after write, and the canonical form kept by each of them. -/

namespace Sys2Proof.Machine

@[simp] theorem memGet_memPut_same (m : Memory) (a : Nat) (b : Byte) : memGet (memPut m a b) a = some b := by
  induction m with
  | nil => simp [memPut, memGet]
  | cons c m ih =>
    obtain ⟨k, v⟩ := c
    simp only [memPut]
    split
    · simp [memGet]
    · split
      · simp [memGet]
      · rw [memGet, if_neg (by omega), ih]

theorem memGet_memPut_other (m : Memory) {a a' : Nat} (b : Byte) (h : a' ≠ a) :
    memGet (memPut m a b) a' = memGet m a' := by
  induction m with
  | nil => simp [memPut, memGet, Ne.symm h]
  | cons c m ih =>
    obtain ⟨k, v⟩ := c
    simp only [memPut]
    split
    · simp [memGet, Ne.symm h]
    · split
      · subst a
        simp [memGet, Ne.symm h]
      · simp only [memGet, ih]

/-- Every address of a memory after a store is the stored one or was there before. -/
theorem mem_memPut {m : Memory} {a : Nat} {b : Byte} {c : Host.Cell} (h : c ∈ memPut m a b) :
    c = (a, b) ∨ c ∈ m := by
  induction m with
  | nil => simpa [memPut] using h
  | cons d m ih =>
    obtain ⟨k, v⟩ := d
    simp only [memPut] at h
    split at h
    · simpa using h
    · split at h
      · simp only [List.mem_cons] at h ⊢
        exact h.imp id .inr
      · simp only [List.mem_cons] at h ⊢
        rcases h with h | h
        · exact .inr (.inl h)
        · exact (ih h).imp id .inr

theorem memPut_sorted {m : Memory} {a : Nat} {b : Byte} (h : m.Pairwise fun c d => c.1 < d.1) :
    (memPut m a b).Pairwise fun c d => c.1 < d.1 := by
  induction m with
  | nil => simp [memPut]
  | cons d m ih =>
    obtain ⟨k, v⟩ := d
    obtain ⟨hk, hm⟩ := List.pairwise_cons.mp h
    simp only [memPut]
    split
    · refine List.pairwise_cons.mpr ⟨fun c hc => ?_, h⟩
      rcases List.mem_cons.mp hc with rfl | hc
      · assumption
      · exact lt_trans ‹a < k› (hk c hc)
    · split
      · subst a
        exact List.pairwise_cons.mpr ⟨hk, hm⟩
      · refine List.pairwise_cons.mpr ⟨fun c hc => ?_, ih hm⟩
        rcases mem_memPut hc with rfl | hc
        · simp only
          omega
        · exact hk c hc

/-- A store within the buffer space keeps the canonical form. -/
theorem memPut_wf {m : Memory} {a : Nat} {b : Byte} (ha : a < 2 ^ 32) (h : m.wf) : (memPut m a b).wf :=
  ⟨memPut_sorted h.1, fun c hc => by
    rcases mem_memPut hc with rfl | hc
    · exact ha
    · exact h.2 c hc⟩

/-- Everything a host store can do: the byte changes where MEM admits the address, and nothing else ever does. -/
theorem hostWrite_cases (s : State) (a : Addr) (b : Byte) :
    (∃ c, memGet s.mem a.toNat = some c ∧ hostWrite s a b = s.setMem (memPut s.mem a.toNat b)) ∨
    (memGet s.mem a.toNat = none ∧ hostWrite s a b = s) := by
  unfold hostWrite
  cases h : memGet s.mem a.toNat with
  | none => exact .inr ⟨rfl, rfl⟩
  | some c => exact .inl ⟨c, rfl, rfl⟩

theorem hostWrite_wf {s : State} (a : Addr) (b : Byte) (h : s.mem.wf) : (hostWrite s a b).mem.wf := by
  rcases hostWrite_cases s a b with ⟨c, -, e⟩ | ⟨-, e⟩ <;> rw [e]
  · exact memPut_wf a.isLt h
  · exact h

theorem takeHostWrite_wf {s : State} (a : Addr) (b : Byte) (rest : List TraceItem) (h : s.mem.wf) :
    (takeHostWrite s a b rest).mem.wf := hostWrite_wf a b h

theorem reset_mem_wf : State.reset.mem.wf := by decide

/-- Everything a read can do (20_memory.md R62). -/
theorem memRead_cases (m : Memory) (a : Addr) :
    (∃ b, memGet m a.toNat = some b ∧ memRead m a = .ok b) ∨
    (memGet m a.toNat = none ∧ memRead m a = .error { code := .memRead, info := a.setWidth 64 }) := by
  unfold memRead
  cases h : memGet m a.toNat with
  | none => exact .inr ⟨rfl, rfl⟩
  | some b => exact .inl ⟨b, rfl, rfl⟩

end Sys2Proof.Machine
end

