-- ==== Sys2Proof/Laws/Ops.lean ====
section
/-! SUPPORT. One lemma for each shared operation that says everything it can do: the two halt gates, the queues, the
latches. -/

namespace Sys2Proof.Machine

/-! ## The halt gate -/

/-- Everything a stimulus can do: nothing but the wires while halted, its handler's state, or a fault (R302, R303). -/
theorem onStimulus_cases (s frozen : State) (h : Except FaultRecord State) :
    (s.hof.halted = true ∧ onStimulus s frozen h = frozen) ∨
    (s.hof.halted = false ∧ ∃ t, h = .ok t ∧ onStimulus s frozen h = t) ∨
    (s.hof.halted = false ∧ ∃ f, h = .error f ∧ onStimulus s frozen h = takeFault s f) := by
  unfold onStimulus
  cases hh : s.hof.halted <;> cases h <;> simp

/-- Everything a gated command can do (R302, R303). -/
theorem onCommand_cases (s : State) (h : Except FaultRecord State) :
    (s.hof.halted = true ∧ onCommand s h = s.respond respHalted) ∨
    (s.hof.halted = false ∧ ∃ t, h = .ok t ∧ onCommand s h = t) ∨
    (s.hof.halted = false ∧ ∃ f, h = .error f ∧ onCommand s h = (takeFault s f).respond respHalted) := by
  unfold onCommand
  cases hh : s.hof.halted <;> cases h <;> simp

theorem onStimulus_halted {s : State} (frozen : State) (h : Except FaultRecord State) (hh : s.hof.halted = true) :
    onStimulus s frozen h = frozen := by
  simp [onStimulus, hh]

theorem onStimulus_ok {s : State} (frozen t : State) (hh : s.hof.halted = false) :
    onStimulus s frozen (.ok t) = t := by
  simp [onStimulus, hh]

theorem onStimulus_error {s : State} (frozen : State) (f : FaultRecord) (hh : s.hof.halted = false) :
    onStimulus s frozen (.error f) = takeFault s f := by
  simp [onStimulus, hh]

theorem onCommand_halted {s : State} (h : Except FaultRecord State) (hh : s.hof.halted = true) :
    onCommand s h = s.respond respHalted := by
  simp [onCommand, hh]

theorem onCommand_ok {s : State} (t : State) (hh : s.hof.halted = false) : onCommand s (.ok t) = t := by
  simp [onCommand, hh]

theorem onCommand_error {s : State} (f : FaultRecord) (hh : s.hof.halted = false) :
    onCommand s (.error f) = (takeFault s f).respond respHalted := by
  simp [onCommand, hh]

/-! ## Queues -/

/-- `Enq` below the capacity adds one at the tail of the delivery order and moves nothing else (10_state.md R28). -/
theorem enq_spec {cap : Nat} {q : Queue} (v : Byte) (hc : q.count.toNat < cap) (hcap : cap ≤ 15)
    (hh : q.head.toNat < cap) :
    (enq cap q v).count.toNat = q.count.toNat + 1 ∧ (enq cap q v).head = q.head ∧
      queueList cap (enq cap q v) = queueList cap q ++ [v] := by
  have hcount : (enq cap q v).count.toNat = q.count.toNat + 1 := by
    have h1 : (1#4).toNat = 1 := rfl
    simp only [enq, BitVec.toNat_add, h1]
    omega
  refine ⟨hcount, rfl, ?_⟩
  have hidx : (q.head.toNat + q.count.toNat) % cap < 16 := lt_of_lt_of_le (Nat.mod_lt _ (by omega)) (by omega)
  simp only [queueList, hcount, List.range_succ, List.map_append, List.map_cons, List.map_nil]
  congr 1
  · refine List.map_congr_left fun i hi => ?_
    have hi : i < q.count.toNat := List.mem_range.mp hi
    have hne : (q.head.toNat + q.count.toNat) % cap ≠ (q.head.toNat + i) % cap := by
      intro h
      have h1 := Nat.ModEq.add_left_cancel' q.head.toNat h
      have h2 : q.count.toNat % cap = i % cap := h1
      rw [Nat.mod_eq_of_lt hc, Nat.mod_eq_of_lt (by omega)] at h2
      omega
    simp [enq, Vector.getElem?_setIfInBounds_ne hne]
  · simp [enq, hidx]

/-- `Deq` of a queue that holds something takes the first of the delivery order (10_state.md R28). -/
theorem deq_spec {cap : Nat} {q : Queue} (hc : q.count ≠ 0#4) (hcap : cap ≤ 15) (hh : q.head.toNat < cap) :
    (deqRest cap q).count.toNat + 1 = q.count.toNat ∧ (deqRest cap q).head.toNat < cap ∧
      queueList cap q = deqByte q :: queueList cap (deqRest cap q) := by
  have hpos : 0 < q.count.toNat := by
    rcases Nat.eq_zero_or_pos q.count.toNat with h | h
    · exact absurd (BitVec.eq_of_toNat_eq (by simpa using h)) hc
    · exact h
  have hlt : q.count.toNat < 16 := q.count.isLt
  have hcount : (deqRest cap q).count.toNat + 1 = q.count.toNat := by
    have h1 : (1#4).toNat = 1 := rfl
    simp only [deqRest, BitVec.toNat_sub, h1]
    omega
  have hmod : (q.head.toNat + 1) % cap < cap := Nat.mod_lt _ (by omega)
  have hhead : (deqRest cap q).head.toNat = (q.head.toNat + 1) % cap := by
    simp only [deqRest, BitVec.toNat_ofNat]
    exact Nat.mod_eq_of_lt (by omega)
  refine ⟨hcount, by omega, ?_⟩
  simp only [queueList, hhead, ← hcount, List.range_succ_eq_map, List.map_cons, List.map_map]
  congr 1
  · have h16 : q.head.toNat < 16 := q.head.isLt
    simp [Nat.mod_eq_of_lt hh, deqByte, h16]
  · refine List.map_congr_left fun i _ => ?_
    have : (q.head.toNat + (i + 1)) % cap = ((q.head.toNat + 1) % cap + i) % cap := by
      rw [Nat.mod_add_mod]
      congr 1
      omega
    simp [Function.comp, deqRest, this]

/-! ## Latches -/

@[simp] theorem latchIf_true (h : Hof) (m : Byte) : latchIf true h m = latch h m := rfl

@[simp] theorem latchIf_false (h : Hof) (m : Byte) : latchIf false h m = h := rfl

@[simp] theorem latchIf_halted (b : Bool) (h : Hof) (m : Byte) : (latchIf b h m).halted = h.halted := by
  cases b <;> rfl

@[simp] theorem latchIf_faultCode (b : Bool) (h : Hof) (m : Byte) : (latchIf b h m).faultCode = h.faultCode := by
  cases b <;> rfl

@[simp] theorem latchIf_faultInfo (b : Bool) (h : Hof) (m : Byte) : (latchIf b h m).faultInfo = h.faultInfo := by
  cases b <;> rfl

@[simp] theorem latchIf_irqEn (b : Bool) (h : Hof) (m : Byte) : (latchIf b h m).irqEn = h.irqEn := by
  cases b <;> rfl

theorem latchIf_irqLat (b : Bool) (h : Hof) (m : Byte) :
    (latchIf b h m).irqLat = h.irqLat ||| (if b then m else 0) := by
  cases b <;> simp [latchIf, latch]

end Sys2Proof.Machine
end

