-- ==== Sys2Proof/Laws/PerInstr.lean ====
section
/-! SUPPORT. Facts about every instruction as syntax, one lemma per constructor. -/

namespace Sys2Proof.Laws

/-- A row of spec/opcode_table.json: how many bits, and its match and mask. -/
structure TableRow where
  nbits : Nat
  matchBits : Nat
  mask : Nat
deriving DecidableEq, Repr

/-- The row of an instruction, copied from spec/opcode_table.json (30_encoding.md R83, R91). -/
def tableRow : Instr → TableRow
  | .nop => { nbits := 64, matchBits := 0x0000000000000000, mask := 0xFFFFFFFFFFFFFFFF }
  | .status => { nbits := 64, matchBits := 0x0100000000000000, mask := 0xFFFFFFFFFFFFFFFF }
  | .xstatus => { nbits := 64, matchBits := 0x0200000000000000, mask := 0xFFFFFFFFFFFFFFFF }
  | .debPeek _ => { nbits := 64, matchBits := 0x0300000000000000, mask := 0xFFF8FFFFFFFFFFFF }
  | .irqEn _ => { nbits := 64, matchBits := 0x0400000000000000, mask := 0xFF60FFFFFFFFFFFF }
  | .irqClr _ => { nbits := 64, matchBits := 0x0500000000000000, mask := 0xFF60FFFFFFFFFFFF }
  | .faultInfo _ => { nbits := 64, matchBits := 0x0600000000000000, mask := 0xFFFEFFFFFFFFFFFF }
  | .btnPop => { nbits := 64, matchBits := 0x1000000000000000, mask := 0xFFFFFFFFFFFFFFFF }
  | .uartTx _ _ => { nbits := 64, matchBits := 0x2000000000000000, mask := 0xFFFF000000000000 }
  | .uartRxPop => { nbits := 64, matchBits := 0x2100000000000000, mask := 0xFFFFFFFFFFFFFFFF }
  | .i2cSetsa _ => { nbits := 64, matchBits := 0x3000000000000000, mask := 0xFF00FFFFFFFFFFFF }
  | .i2cWrite _ _ _ => { nbits := 64, matchBits := 0x3100000000000000, mask := 0xFF00000000000000 }
  | .i2cWriteOne _ => { nbits := 64, matchBits := 0x3200000000000000, mask := 0xFF00FFFFFFFFFFFF }
  | .evtPins _ => { nbits := 16, matchBits := 0x0100, mask := 0xFF00 }
  | .evtTick => { nbits := 16, matchBits := 0x0200, mask := 0xFFFF }
  | .evtBaud16 => { nbits := 16, matchBits := 0x0300, mask := 0xFFFF }
  | .evtRxd _ => { nbits := 16, matchBits := 0x0400, mask := 0xFFFE }
  | .evtI2cq => { nbits := 16, matchBits := 0x0500, mask := 0xFFFF }
  | .evtBusext _ _ => { nbits := 16, matchBits := 0x0600, mask := 0xFFFC }
  | .evtReset => { nbits := 16, matchBits := 0x0700, mask := 0xFFFF }
  | .evtCmd _ => { nbits := 16, matchBits := 0x0800, mask := 0xFFFF }

/-- The first item spells a word that the row matches. -/
def fitsRow (r : TableRow) : List TraceItem → Bool
  | .command w :: _ => r.nbits == 64 && w &&& BitVec.ofNat 64 r.mask == BitVec.ofNat 64 r.matchBits
  | .half h :: _ => r.nbits == 16 && h &&& BitVec.ofNat 16 r.mask == BitVec.ofNat 16 r.matchBits
  | .hostWrite _ _ :: _ => false
  | [] => false

/-- What the encoder writes for a well-formed instruction is matched by that instruction's row of the opcode table. -/
def EncodeMatchesRow.Statement (i : Instr) : Prop :=
  i.wf = true → fitsRow (tableRow i) (encode i) = true

/-- A command word fits a row if it does field by field. -/
theorem fits_command {op x op' x' : Byte} {n n' : BitVec 16} {p p' : Addr} {r : TableRow} {w : CmdWord}
    {rest : List TraceItem} (hr : r.nbits = 64) (hw : w = packCmd op x n p)
    (hm : BitVec.ofNat 64 r.mask = packCmd op' x' n' p') (h : BitVec.ofNat 64 r.matchBits = packCmd op 0#8 0#16 0#32)
    (hop : op &&& op' = op) (hx : x &&& x' = 0#8) (hn : n &&& n' = 0#16) (hp : p &&& p' = 0#32) :
    fitsRow r (.command w :: rest) = true := by
  simp only [fitsRow, hr, hw, hm, h, packCmd_and, hop, hx, hn, hp, beq_self_eq_true, Bool.and_self]

namespace EncodeMatchesRow

theorem nop : Statement .nop := fun _ => by decide

theorem status : Statement .status := fun _ => by decide

theorem xstatus : Statement .xstatus := fun _ => by decide

theorem debPeek (pin : BitVec 3) : Statement (.debPeek pin) := fun _ => by
  revert pin
  decide

theorem irqEn (mask : Byte) : Statement (.irqEn mask) := fun h => by
  have hm : mask &&& 0x60#8 = 0#8 := by simpa [Instr.wf, Instr.command?, Command.wf, irqMaskOk] using h
  exact fits_command (op' := 0xFF) (x' := 0x60) (n' := 0xFFFF) (p' := 0xFFFFFFFF) rfl rfl
    (by simp only [tableRow]; decide) (by simp only [tableRow]; decide)
    (by decide) hm (by decide) (by decide)

theorem irqClr (mask : Byte) : Statement (.irqClr mask) := fun h => by
  have hm : mask &&& 0x60#8 = 0#8 := by simpa [Instr.wf, Instr.command?, Command.wf, irqMaskOk] using h
  exact fits_command (op' := 0xFF) (x' := 0x60) (n' := 0xFFFF) (p' := 0xFFFFFFFF) rfl rfl
    (by simp only [tableRow]; decide) (by simp only [tableRow]; decide)
    (by decide) hm (by decide) (by decide)

theorem faultInfo (half : BitVec 1) : Statement (.faultInfo half) := fun _ => by
  revert half
  decide

theorem btnPop : Statement .btnPop := fun _ => by decide

theorem uartTx (ptr : Addr) (len : BitVec 16) : Statement (.uartTx ptr len) := fun _ => by
  exact fits_command (op' := 0xFF) (x' := 0xFF) (n' := 0) (p' := 0) rfl rfl
    (by simp only [tableRow]; decide) (by simp only [tableRow]; decide)
    (by decide) (by decide) BitVec.and_zero BitVec.and_zero

theorem uartRxPop : Statement .uartRxPop := fun _ => by decide

theorem i2cSetsa (msa : Byte) : Statement (.i2cSetsa msa) := fun _ => by
  exact fits_command (op' := 0xFF) (x' := 0) (n' := 0xFFFF) (p' := 0xFFFFFFFF) rfl rfl
    (by simp only [tableRow]; decide) (by simp only [tableRow]; decide)
    (by decide) BitVec.and_zero (by decide) (by decide)

theorem i2cWrite (ctrl : Byte) (ptr : Addr) (len : BitVec 16) : Statement (.i2cWrite ctrl ptr len) := fun _ => by
  exact fits_command (op' := 0xFF) (x' := 0) (n' := 0) (p' := 0) rfl rfl
    (by simp only [tableRow]; decide) (by simp only [tableRow]; decide)
    (by decide) BitVec.and_zero BitVec.and_zero BitVec.and_zero

theorem i2cWriteOne (byte : Byte) : Statement (.i2cWriteOne byte) := fun _ => by
  exact fits_command (op' := 0xFF) (x' := 0) (n' := 0xFFFF) (p' := 0xFFFFFFFF) rfl rfl
    (by simp only [tableRow]; decide) (by simp only [tableRow]; decide)
    (by decide) BitVec.and_zero (by decide) (by decide)

theorem evtPins (v : Byte) : Statement (.evtPins v) := fun _ => by
  have h : packEvt 0x01 v &&& packEvt 0xFF 0 = packEvt 0x01 0 := by
    rw [packEvt_and]
    exact congrArg (packEvt 0x01) BitVec.and_zero
  have hm : (0xFF00 : EvtWord) = packEvt 0xFF 0 := by decide
  have ht : (0x0100 : EvtWord) = packEvt 0x01 0 := by decide
  show ((16 : Nat) == 16 && packEvt 0x01 v &&& 0xFF00 == 0x0100) = true
  rw [hm, ht, h]
  decide

theorem evtTick : Statement .evtTick := fun _ => by decide

theorem evtBaud16 : Statement .evtBaud16 := fun _ => by decide

theorem evtRxd (b : Bool) : Statement (.evtRxd b) := fun _ => by
  revert b
  decide

theorem evtI2cq : Statement .evtI2cq := fun _ => by decide

theorem evtBusext (c d : Bool) : Statement (.evtBusext c d) := fun _ => by
  revert c d
  decide

theorem evtReset : Statement .evtReset := fun _ => by decide

theorem evtCmd (w : CmdWord) : Statement (.evtCmd w) := fun _ => by
  show ((16 : Nat) == 16 && packEvt 0x08 0 &&& 0xFFFF == 0x0800) = true
  decide

end EncodeMatchesRow

end Sys2Proof.Laws
end

