-- ==== Sys2Proof/Laws/Trace.lean ====
section
/-! SUPPORT. What a step can do, said once, and the small facts about the input. -/

namespace Sys2Proof.Machine

/-- Everything a step can do. -/
theorem step_cases (s : State) :
    (s.cfg.wf = false ∧ step s = .refused .illegalConfig) ∨
    (s.cfg.wf = true ∧ fetch s = .idle ∧ step s = .next s) ∨
    (s.cfg.wf = true ∧ ∃ a b rest, fetch s = .hostWrite a b rest ∧ step s = .next (takeHostWrite s a b rest)) ∨
    (s.cfg.wf = true ∧ ∃ i rest used, fetch s = .run i rest used ∧ step s = exec i (s.consume rest used)) ∨
    (s.cfg.wf = true ∧ ∃ e, fetch s = .refused e ∧ step s = .refused (.badTrace s.position e)) := by
  unfold step
  cases hw : s.cfg.wf
  · simp
  · cases hf : fetch s <;> simp

@[simp] theorem readTrace_nil : readTrace [] = .idle := rfl

@[simp] theorem readTrace_command (w : CmdWord) (rest : List TraceItem) :
    readTrace (.command w :: rest) = .run (portInstr w) rest 1 := rfl

@[simp] theorem readTrace_hostWrite (a : Addr) (b : Byte) (rest : List TraceItem) :
    readTrace (.hostWrite a b :: rest) = .hostWrite a b rest := rfl

theorem portInstr_cmd {w : CmdWord} {c : Command} (h : decodeCmd64 w = .cmd c) : portInstr w = c.toInstr := by
  simp [portInstr, h]

end Sys2Proof.Machine
end

