-- ==== Sys2Proof/Laws/Words.lean ====
section
/-! SUPPORT. Lane masks bit by bit (00_scope.md R9), and what is built from them. Indices are naturals below 8: simp writes
a `Fin 8` index so. -/

namespace Sys2Proof

theorem getLsbD_lanes (f : Fin 8 → Bool) (i : Fin 8) : (lanes f).getLsbD i.val = f i := by
  show BitVec.getLsbD (w := 1 + 1 + 1 + 1 + 1 + 1 + 1 + 1) (BitVec.ofBool (f 7) ++ BitVec.ofBool (f 6) ++
    BitVec.ofBool (f 5) ++ BitVec.ofBool (f 4) ++ BitVec.ofBool (f 3) ++ BitVec.ofBool (f 2) ++
    BitVec.ofBool (f 1) ++ BitVec.ofBool (f 0)) i.val = f i
  simp only [BitVec.getLsbD_append, BitVec.getLsbD_ofBool]
  fin_cases i <;> rfl

@[simp] theorem getElem_lanes (f : Fin 8 → Bool) (i : Nat) (h : i < 8) : (lanes f)[i] = f ⟨i, h⟩ :=
  getLsbD_lanes f ⟨i, h⟩

theorem byte_ext {a b : Byte} (h : ∀ i : Fin 8, a[i.val] = b[i.val]) : a = b := by
  ext i hi
  exact h ⟨i, hi⟩

/-- A mask is zero exactly if no lane is in it. -/
theorem byte_eq_zero_iff {a : Byte} : a = 0#8 ↔ ∀ i : Fin 8, a[i.val] = false := by
  constructor
  · rintro rfl i
    simp
  · intro h
    exact byte_ext fun i => by rw [h i]; simp

theorem lanes_eq_zero_iff {f : Fin 8 → Bool} : lanes f = 0#8 ↔ ∀ i, f i = false := by
  simp [byte_eq_zero_iff]

namespace Machine

@[simp] theorem getElem_debSet (d : Deb) (i : Nat) (h : i < 8) : (debSet d)[i] = (d.rem[i] != 0#8) := by
  simp [debSet]

/-- Parked means that no lane counts (10_state.md R27). -/
theorem parked_iff {d : Deb} : parked d = true ↔ ∀ i : Fin 8, d.rem[i.val] = 0#8 := by
  simp [parked, byte_eq_zero_iff]

@[simp] theorem getElem_tickPressed (c : Cfg) (pins : Byte) (d : Deb) (i : Nat) (h : i < 8) :
    (tickPressed c pins d)[i] = (tickFin d ⟨i, h⟩ && pressVote c (tickVote pins d ⟨i, h⟩)) := by
  simp [tickPressed]

@[simp] theorem getElem_rxPut (sh : Byte) (k : BitVec 3) (b : Bool) (i : Nat) (h : i < 8) :
    (rxPut sh k b)[i] = if (⟨i, h⟩ : Fin 8) = k.toFin then b else sh[i] := by
  simp [rxPut]

@[simp] theorem foldTouched_rem (c : Cfg) (d : Deb) (i : Nat) (h : i < 8) :
    (foldTouched c d).rem[i] = if d.edgePend[i] then BitVec.ofNat 8 c.window else d.rem[i] := by
  simp [foldTouched]

@[simp] theorem foldTouched_vote (c : Cfg) (d : Deb) (i : Nat) (h : i < 8) :
    (foldTouched c d).vote[i] = if d.edgePend[i] then 0#8 else d.vote[i] := by
  simp [foldTouched]

@[simp] theorem foldTouched_edgePend (c : Cfg) (d : Deb) : (foldTouched c d).edgePend = 0#8 := rfl

@[simp] theorem foldTouched_btnq (c : Cfg) (d : Deb) : (foldTouched c d).btnq = d.btnq := rfl

@[simp] theorem tickLanes_rem (pins : Byte) (d : Deb) (i : Nat) (h : i < 8) :
    (tickLanes pins d).rem[i] = tickRem d ⟨i, h⟩ := by
  simp [tickLanes]

@[simp] theorem tickLanes_vote (pins : Byte) (d : Deb) (i : Nat) (h : i < 8) :
    (tickLanes pins d).vote[i] = if tickFin d ⟨i, h⟩ then 0#8 else tickVote pins d ⟨i, h⟩ := by
  simp [tickLanes]

@[simp] theorem tickLanes_edgePend (pins : Byte) (d : Deb) : (tickLanes pins d).edgePend = d.edgePend := rfl

@[simp] theorem tickLanes_btnq (pins : Byte) (d : Deb) : (tickLanes pins d).btnq = d.btnq := rfl

end Machine

end Sys2Proof
end

