-- ==== Sys2Proof/Laws/Units.lean ====
section
/-! SUPPORT. What each step function of a unit can do, said once: if it answers, one of these cases holds. -/

namespace Sys2Proof.Machine

/-! ## Transmit -/

/-- TXE (42_uart.md R189): the transfer completes, the next byte is loaded, or the read faults. -/
theorem txe_cases (m : Memory) (t : UartTx) :
    (t.txCur + 1#32 = t.txEnd ∧ txe m t = .ok ({ t with txCur := t.txCur + 1#32, txBusy := false }, true)) ∨
    (t.txCur + 1#32 ≠ t.txEnd ∧ ∃ b, memGet m (t.txCur + 1#32).toNat = some b ∧
      txe m t = .ok ({ t with txCur := t.txCur + 1#32, thr := b, thrFull := true }, false)) ∨
    (t.txCur + 1#32 ≠ t.txEnd ∧ memGet m (t.txCur + 1#32).toNat = none ∧
      txe m t = .error { code := .memRead, info := (t.txCur + 1#32).setWidth 64 }) := by
  unfold txe
  by_cases h : t.txCur + 1#32 = t.txEnd
  · exact .inl ⟨h, by rw [if_pos h]⟩
  · rw [if_neg h]
    rcases memRead_cases m (t.txCur + 1#32) with ⟨b, hb, e⟩ | ⟨hb, e⟩ <;> rw [e]
    · exact .inr (.inl ⟨h, b, hb, rfl⟩)
    · exact .inr (.inr ⟨h, hb, rfl⟩)

/-- The shifter's move (R186): nothing while idle, a strobe within the bit, the end of the frame, or the next bit. -/
theorem txShift_cases (t : UartTx) :
    (t.txAct = false ∧ txShift t = t) ∨
    (t.txAct = true ∧ t.txPre ≠ 15#4 ∧ txShift t = { t with txPre := t.txPre + 1#4 }) ∨
    (t.txAct = true ∧ t.txPre = 15#4 ∧ t.txBit = 9#4 ∧
      txShift t = { t with txPre := 0#4, txBit := 0#4, txAct := false, txd := true }) ∨
    (t.txAct = true ∧ t.txPre = 15#4 ∧ t.txBit ≠ 9#4 ∧
      txShift t = { t with txPre := 0#4, txBit := t.txBit + 1#4, txd := frameBit t.tsr (t.txBit + 1#4) }) := by
  have hb : t.txBit + 1#4 = 10#4 ↔ t.txBit = 9#4 := by
    constructor <;> intro h <;> bv_omega
  unfold txShift
  cases ha : t.txAct
  · simp
  · by_cases hp : t.txPre = 15#4
    · by_cases h9 : t.txBit = 9#4
      · simp [hp, h9]
      · simp only [if_true, hp, hb, if_neg h9]
        simp [h9]
    · simp [hp]

/-- The transmit step (R186): the shifter moves, and if it is then free and a byte waits, the byte is loaded and TXE runs. -/
theorem txStep_cases (m : Memory) (t : UartTx) :
    ((txShift t).txAct = false ∧ (txShift t).thrFull = true ∧ txStep m t = txe m (txLoad (txShift t))) ∨
    (((txShift t).txAct = true ∨ (txShift t).thrFull = false) ∧ txStep m t = .ok (txShift t, false)) := by
  unfold txStep
  cases (txShift t).txAct <;> cases (txShift t).thrFull <;> simp

/-! ## Receive -/

/-- The receive step leaves `rx_prev` at the line level (R195). -/
@[simp] theorem rxStep_rxPrev (c : Cfg) (rxd : Bool) (r : UartRx) : (rxStep c rxd r).1.rxPrev = rxd := rfl

/-- The receive step raises RXERR only in the stop bit's sample (R199). -/
theorem rxStep_err {c : Cfg} {rxd : Bool} {r : UartRx} (h : (rxStep c rxd r).2 = true) :
    r.rxSt = .stop ∧ r.rxCnt = 15#4 := by
  unfold rxStep rxMachine at h
  cases hs : r.rxSt <;> simp only [hs] at h
  · exact absurd h (by decide)
  · exact absurd h (by decide)
  · exact absurd h (by decide)
  · refine ⟨rfl, ?_⟩
    by_contra hc
    simp [rxStop, hc] at h

/-! ## I2C -/

/-- MDONE (43_i2c.md R250): the transaction completes, the next byte is issued, or the read faults. -/
theorem mdone_cases (mem : Memory) (m : I2cm) :
    ((m.err = true ∨ m.i2cCur = m.i2cEnd) ∧
      mdone mem m = .ok ({ m with i2cBusy := false, i2cRes := m.err }, true)) ∨
    (m.err = false ∧ m.i2cCur ≠ m.i2cEnd ∧ ∃ b, memGet mem m.i2cCur.toNat = some b ∧
      mdone mem m = .ok
        ({ m with
            mdr := b
            i2cCur := m.i2cCur + 1#32
            pendStop := decide (m.i2cCur + 1#32 = m.i2cEnd)
            sh := b
            kind := .data
            bitn := 7#3
            seq := .xmit
            ph := 0#2 }, false)) ∨
    (m.err = false ∧ m.i2cCur ≠ m.i2cEnd ∧ memGet mem m.i2cCur.toNat = none ∧
      mdone mem m = .error { code := .memRead, info := m.i2cCur.setWidth 64 }) := by
  unfold mdone
  cases he : m.err
  · by_cases hc : m.i2cCur = m.i2cEnd
    · exact .inl ⟨.inr hc, by simp [hc]⟩
    · have hb : (m.i2cCur == m.i2cEnd) = false := by simpa using hc
      rw [hb]
      rcases memRead_cases mem m.i2cCur with ⟨b, hg, e⟩ | ⟨hg, e⟩ <;> rw [e]
      · refine .inr (.inl ⟨rfl, hc, b, hg, ?_⟩)
        by_cases hl : m.i2cCur + 1#32 = m.i2cEnd <;> simp [hl, issue, McsCommand.bits]
      · exact .inr (.inr ⟨rfl, hc, hg, by simp⟩)
  · exact .inl ⟨.inl rfl, by simp⟩

/-- A START command clears the error flags and waits for the bus (R251). -/
theorem issue_start (c : McsCommand) (hc : c.bits[1] = true) (m : I2cm) :
    issue c m =
      { m with
        pendStop := c.bits[2]
        err := false
        adrack := false
        datack := false
        arblst := false
        seq := .waitbus
        ph := 0#2 } := by
  simp [issue, hc]

/-! ## Debounce -/

/-- TICK on a sampling engine (41_debounce.md R143): no event, one event, or the fault on a full queue. -/
theorem debTick_cases (c : Cfg) (pins : Byte) (d : Deb) :
    (tickPressed c pins d = 0#8 ∧ debTick c pins d = .ok (foldTouched c (tickLanes pins d))) ∨
    (tickPressed c pins d ≠ 0#8 ∧ d.btnq.count.toNat ≠ c.btnqCap ∧
      debTick c pins d = .ok (foldTouched c
        { tickLanes pins d with btnq := enq c.btnqCap d.btnq (tickPressed c pins d) })) ∨
    (tickPressed c pins d ≠ 0#8 ∧ d.btnq.count.toNat = c.btnqCap ∧
      debTick c pins d = .error { code := .btnqFull, info := (tickPressed c pins d).setWidth 64 }) := by
  unfold debTick queueFull
  by_cases hp : tickPressed c pins d = 0#8
  · exact .inl ⟨hp, by rw [if_pos hp]⟩
  · by_cases hq : d.btnq.count.toNat = c.btnqCap
    · exact .inr (.inr ⟨hp, hq, by simp [hp, hq]⟩)
    · exact .inr (.inl ⟨hp, hq, by simp [hp, hq]⟩)

end Sys2Proof.Machine
end

