-- ==== Sys2Proof/Tests/Slice0.lean ====
section
/-! SUPPORT. Tests of the model: refusals of ill-formed terms, decoding of words written out from the spec, one-step results
taken from the spec's examples and vectors (95_test_vectors.md), and witnesses that the obligations' hypotheses can be met. -/

namespace Sys2Proof.Tests

open Sys2Proof.Machine

/-! ## Well-formedness (00_scope.md R6, R8; 30_encoding.md R83): one ill-formed term for each check -/

theorem test_default_cfg_wf : Cfg.default.wf = true := by decide
theorem test_cfg_window_zero : { Cfg.default with window := 0 }.wf = false := by decide
theorem test_cfg_window_256 : { Cfg.default with window := 256 }.wf = false := by decide
theorem test_cfg_window_bounds :
    { Cfg.default with window := 1 }.wf = true ∧ { Cfg.default with window := 255 }.wf = true := by decide
theorem test_cfg_period_zero : { Cfg.default with tMs := 0 }.wf = false := by decide
theorem test_cfg_no_button : { Cfg.default with btnMask := 0x00 }.wf = false := by decide
theorem test_cfg_btnq_zero : { Cfg.default with btnqCap := 0 }.wf = false := by decide
theorem test_cfg_btnq_16 : { Cfg.default with btnqCap := 16 }.wf = false := by decide
theorem test_cfg_rxq_zero : { Cfg.default with rxqCap := 0 }.wf = false := by decide
theorem test_cfg_rxq_16 : { Cfg.default with rxqCap := 16 }.wf = false := by decide
theorem test_cfg_baud_zero : { Cfg.default with baud := 0 }.wf = false := by decide
theorem test_cfg_i2c_rate_zero : { Cfg.default with i2cRate := 0 }.wf = false := by decide
theorem test_cfg_timeout_zero : { Cfg.default with txTmoMsPerByte := 0 }.wf = false := by decide
theorem test_irqEn_mask_refused : (Instr.irqEn 0x20).wf = false ∧ (Instr.irqEn 0x40).wf = false := by decide
theorem test_irqClr_mask_refused : (Instr.irqClr 0x20).wf = false ∧ (Instr.irqClr 0x40).wf = false := by decide
theorem test_irqEn_mask_accepted : (Instr.irqEn 0x9F).wf = true := by decide
theorem test_nbtn_default : Cfg.default.nbtn = 2 := by decide

/-! ## Decoding: every constructor from a word written out from R82, R91, or from 95_test_vectors.md -/

theorem test_decode_nop : decodeTableWord 64 0x0000000000000000 = some .nop := by decide
theorem test_decode_status : decodeTableWord 64 0x0100000000000000 = some .status := by decide
theorem test_decode_xstatus : decodeTableWord 64 0x0200000000000000 = some .xstatus := by decide
theorem test_decode_debPeek : decodeTableWord 64 0x0304000000000000 = some (.debPeek 4) := by decide
theorem test_decode_irqEn : decodeTableWord 64 0x048A000000000000 = some (.irqEn 0x8A) := by decide
theorem test_decode_irqClr : decodeTableWord 64 0x0502000000000000 = some (.irqClr 0x02) := by decide
theorem test_decode_faultInfo : decodeTableWord 64 0x0601000000000000 = some (.faultInfo 1) := by decide
theorem test_decode_btnPop : decodeTableWord 64 0x1000000000000000 = some .btnPop := by decide
theorem test_decode_uartTx : decodeTableWord 64 0x2000000220000000 = some (.uartTx 0x20000000 2) := by decide
theorem test_decode_uartRxPop : decodeTableWord 64 0x2100000000000000 = some .uartRxPop := by decide
theorem test_decode_i2cSetsa : decodeTableWord 64 0x3078000000000000 = some (.i2cSetsa 0x78) := by decide
theorem test_decode_i2cWrite :
    decodeTableWord 64 0x3140000220000100 = some (.i2cWrite 0x40 0x20000100 2) := by decide
theorem test_decode_i2cWriteOne : decodeTableWord 64 0x3242000000000000 = some (.i2cWriteOne 0x42) := by decide
theorem test_decode_evtPins : decodeTableWord 16 0x01EF = some (.evtPins 0xEF) := by decide
theorem test_decode_evtTick : decodeTableWord 16 0x0200 = some .evtTick := by decide
theorem test_decode_evtBaud16 : decodeTableWord 16 0x0300 = some .evtBaud16 := by decide
theorem test_decode_evtRxd :
    decodeTableWord 16 0x0400 = some (.evtRxd false) ∧ decodeTableWord 16 0x0401 = some (.evtRxd true) := by decide
theorem test_decode_evtI2cq : decodeTableWord 16 0x0500 = some .evtI2cq := by decide
/-- 95_test_vectors.md: BUSEXT(1, 0) is 0x0601 and BUSEXT(1, 1) is 0x0603. -/
theorem test_decode_evtBusext :
    decodeTableWord 16 0x0601 = some (.evtBusext true false) ∧
      decodeTableWord 16 0x0603 = some (.evtBusext true true) := by decide
theorem test_decode_evtReset : decodeTableWord 16 0x0700 = some .evtReset := by decide
theorem test_decode_evtCmd :
    readTrace [.half 0x0800, .command 0x0304000000000000] = .run (.evtCmd 0x0304000000000000) [] 2 := by decide
/-- V-DEC-2, V-DEC-3: unassigned opcodes. -/
theorem test_decode_illegal :
    decodeCmd64 0x0700000000000000 = .illegal 0x07 ∧ decodeCmd64 0xFF12345678ABCDEF = .illegal 0xFF := by decide
/-- V-DEC-4 to V-DEC-9: a must-be-0 bit is 1. -/
theorem test_decode_reserved :
    decodeCmd64 0x0101000000000000 = .reserved 0x01 ∧ decodeCmd64 0x0000000000000001 = .reserved 0x00 ∧
      decodeCmd64 0x0308000000000000 = .reserved 0x03 ∧ decodeCmd64 0x0420000000000000 = .reserved 0x04 ∧
      decodeCmd64 0x0602000000000000 = .reserved 0x06 ∧ decodeCmd64 0x2001000120000000 = .reserved 0x20 := by decide
/-- R92: tags and payloads that spell no stimulus. -/
theorem test_trace_refused :
    readTrace [.half 0x0000] = .refused (.badTag 0x00) ∧ readTrace [.half 0x0900] = .refused (.badTag 0x09) ∧
      readTrace [.half 0x0201] = .refused (.badPayload 0x02 0x01) ∧
      readTrace [.half 0x0402] = .refused (.badPayload 0x04 0x02) ∧
      readTrace [.half 0x0604] = .refused (.badPayload 0x06 0x04) ∧
      readTrace [.half 0x0801] = .refused (.badPayload 0x08 0x01) ∧
      readTrace [.half 0x0800] = .refused .truncatedCmd := by decide
/-- R96: the four MCS commands, and a fifth value. -/
theorem test_decodeMcs :
    decodeMcs 0x03 = .ok .startRun ∧ decodeMcs 0x07 = .ok .startRunStop ∧ decodeMcs 0x01 = .ok .run ∧
      decodeMcs 0x05 = .ok .runStop := by decide
theorem test_decodeMcs_refused : (decodeMcs 0x09).toOption = none ∧ (decodeMcs 0x00).toOption = none := by decide
theorem test_withFetchWord_runs_the_row :
    step (State.reset.withFetchWord 64 0x048A000000000000) =
      exec (.irqEn 0x8A) { State.reset with position := 1 } := rfl

/-! ## States for the one-step tests and the witnesses -/

/-- The launch state with "hi" (0x68, 0x69) at 0x2000_0000 (42_uart.md R181, example). -/
def hi : State := State.launch Cfg.default LaunchLevels.default [(0x20000000, 0x68), (0x20000001, 0x69)]

/-- The answer of an instruction, tested. -/
def gives (i : Instr) (s : State) (p : State → Bool) : Bool :=
  match exec i s with
  | .next t => p t
  | .fault _ => false
  | .refused _ => false

/-- A halted block: V-DEC-2. -/
def halted : State :=
  { hi with hof := { hi.hof with halted := true, faultCode := 0x01, faultInfo := 0x0700000000000000, irqEn := 0x80 } }

/-- A queue whose entries are 0x10, 0x11, ... with this head and count. -/
def someQueue (head count : BitVec 4) : Queue where
  e := Vector.ofFn fun i => BitVec.ofNat 8 (0x10 + i.val)
  head := head
  count := count

def withButtons (q : Queue) : State := { hi with deb := { hi.deb with btnq := q } }

/-- Lane `i` debouncing. -/
def lane (i : Fin 8) (rem vote : Byte) (s : State) : State :=
  { s with deb := { s.deb with rem := s.deb.rem.set i rem, vote := s.deb.vote.set i vote } }

/-- The transmitter sends 0x68 with 0x69 waiting, `bit` and `pre` as given. -/
def sending (bit pre : BitVec 4) (line : Bool) : State :=
  { hi with
    tx := { hi.tx with
      txBusy := true, txCur := 0x20000000, txEnd := 0x20000002, thr := 0x69, thrFull := true, tsr := 0x68,
      txAct := true, txBit := bit, txPre := pre, txd := line } }

/-- The same with nothing waiting. -/
def sendingLast (bit pre : BitVec 4) (line : Bool) : State :=
  { hi with tx := { hi.tx with tsr := 0x68, txAct := true, txBit := bit, txPre := pre, txd := line } }

/-- The receiver in a given place, with the line level. -/
def receiving (st : RxState) (cnt : BitVec 4) (bit : BitVec 3) (line : Bool) (q : Queue) : State :=
  { hi with
    rx := { hi.rx with rxSt := st, rxCnt := cnt, rxBit := bit, rxSh := 0x55, rxq := q, rxPrev := true }
    inp := { hi.inp with rxd := line } }

/-- The I2C master inside a transaction with two payload bytes at 0x2000_0000, the lines as the slot has them. -/
def sendingI2c (q : SeqState) (ph : BitVec 2) (scl sda : Bool) (k : ByteKind) (c d : Bool) : State :=
  { hi with
    i2c := { hi.i2c with
      msa := 0x78, i2cBusy := true, i2cCur := 0x20000000, i2cEnd := 0x20000002, mdr := 0x40, seq := q, ph := ph,
      sh := 0x78, kind := k, sclDrv := scl, sdaDrv := sda }
    inp := { hi.inp with sclExt := c, sdaExt := d } }

/-- The same on the last byte (nothing left to read). -/
def lastI2c (q : SeqState) (ph : BitVec 2) (scl sda : Bool) (err : Bool) (c d : Bool) : State :=
  { hi with
    i2c := { hi.i2c with
      msa := 0x78, i2cBusy := true, i2cCur := 0x20000002, i2cEnd := 0x20000002, mdr := 0x5A, seq := q, ph := ph,
      sh := 0x5A, kind := .data, pendStop := true, err := err, datack := err, sclDrv := scl, sdaDrv := sda }
    inp := { hi.inp with sclExt := c, sdaExt := d } }

/-! ## One step each -/

/-- 40_handoff.md R112. -/
theorem test_nop : gives .nop hi (fun t => t == { hi with resp := 0 }) = true := by decide
/-- V-HS-6. -/
theorem test_nop_halted : gives .nop halted (fun t => t.resp == 0x80000000) = true := by decide
/-- V-UTX-4: TXDONE latched and the line active; V-DEC-2's STATUS. -/
theorem test_status :
    gives .status { sendingLast 0 0 false with hof := { hi.hof with irqLat := 0x02 } }
      (fun t => t.resp == 0x02000200) = true := by decide
theorem test_status_halted : gives .status halted (fun t => t.resp == 0x80018000) = true := by decide
/-- V-HS-2 and V-I2C-12: {irq_en, msa, mcs}. -/
theorem test_xstatus : gives .xstatus { hi with hof := { hi.hof with irqEn := 0x8A } }
    (fun t => t.resp == 0x008A0020) = true := by decide
theorem test_xstatus_active : gives .xstatus (sendingI2c .xmit 0 false false .addr true true)
    (fun t => t.resp == 0x00007841) = true := by decide
/-- 41_debounce.md R152, example. -/
theorem test_debPeek : gives (.debPeek 4) (lane 4 24 1 hi) (fun t => t.resp == 0x00020118) = true := by decide
theorem test_debPeek_other_lane : gives (.debPeek 0) (lane 4 24 1 hi) (fun t => t.resp == 0) = true := by decide
/-- 40_handoff.md R116, example. -/
theorem test_irqEn : gives (.irqEn 0x8A) hi (fun t => t.hof.irqEn == 0x8A && t.resp == 0) = true := by decide
/-- 40_handoff.md R117, example: `irq_lat = 0x0A`, IRQ_CLR 0x02 leaves 0x08. -/
theorem test_irqClr : gives (.irqClr 0x02) { hi with hof := { hi.hof with irqLat := 0x0A } }
    (fun t => t.hof.irqLat == 0x08) = true := by decide
theorem test_irqClr_errors :
    gives (.irqClr 0x10) { hi with hof := { hi.hof with irqLat := 0x12 }, rx := { hi.rx with fe := true, oe := true } }
      (fun t => t.hof.irqLat == 0x02 && !t.rx.fe && !t.rx.oe) = true := by decide
/-- 40_handoff.md R118, example. -/
theorem test_faultInfo : gives (.faultInfo 1) halted (fun t => t.resp == 0x07000000) = true := by decide
theorem test_faultInfo_low : gives (.faultInfo 0) halted (fun t => t.resp == 0) = true := by decide
/-- 41_debounce.md R150, example, here with a head that wraps: the queue is [0x17, 0x10]. -/
theorem test_btnPop : gives .btnPop (withButtons (someQueue 7 2))
    (fun t => t.resp == 0x117 && t.deb.btnq.head == 0 && t.deb.btnq.count == 1) = true := by decide
theorem test_btnPop_empty : gives .btnPop hi (fun t => t == { hi with resp := 0 }) = true := by decide
/-- 42_uart.md R181, example. -/
theorem test_uartTx : gives (.uartTx 0x20000000 2) hi (fun t => t.resp == 0 && t.tx.txCur == 0x20000000 &&
    t.tx.txEnd == 0x20000002 && t.tx.thr == 0x68 && t.tx.thrFull && t.tx.txBusy) = true := by decide
/-- V-DEC-15: TX_BUSY before TX_LEN0. -/
theorem test_uartTx_busy : gives (.uartTx 0x20000000 0) (sending 0 0 false)
    (fun t => t.resp == 0x80000000 && t.hof.faultCode == 0x03 && t.hof.faultInfo == 0x2000000020000000 &&
      t.tx.txBusy) = true := by decide
/-- 42_uart.md R205, example: RXQ = ['t']. -/
theorem test_uartRxPop :
    gives .uartRxPop { hi with rx := { hi.rx with rxq := enq 8 hi.rx.rxq 0x74 } }
      (fun t => t.resp == 0x174 && t.rx.rxq.count == 0) = true := by decide
theorem test_uartRxPop_empty : gives .uartRxPop hi (fun t => t.resp == 0) = true := by decide
/-- 43_i2c.md R232, example; V-DEC-14. -/
theorem test_i2cSetsa : gives (.i2cSetsa 0x78) hi (fun t => t.i2c.msa == 0x78 && t.resp == 0) = true := by decide
theorem test_i2cSetsa_read : gives (.i2cSetsa 0x79) hi
    (fun t => t.hof.faultCode == 0x07 && t.hof.faultInfo == 0x3079000000000000 && t.i2c.msa == 0) = true := by decide
/-- 43_i2c.md R233, example. -/
theorem test_i2cWrite : gives (.i2cWrite 0x40 0x20000100 2) hi (fun t => t.i2c.i2cCur == 0x20000100 &&
    t.i2c.i2cEnd == 0x20000102 && t.i2c.mdr == 0x40 && t.i2c.seq == .waitbus && !t.i2c.pendStop) = true := by decide
/-- V-DEC-17. -/
theorem test_i2cWrite_wraps : gives (.i2cWrite 0x40 0xFFFFFFFF 2) hi
    (fun t => t.hof.faultCode == 0x05 && t.hof.faultInfo == 0x31400002FFFFFFFF) = true := by decide
/-- 43_i2c.md R234. -/
theorem test_i2cWriteOne : gives (.i2cWriteOne 0x42) hi
    (fun t => t.i2c.mdr == 0x42 && t.i2c.i2cBusy && t.i2c.pendStop && t.i2c.seq == .waitbus) = true := by decide
/-- 41_debounce.md R141, example: the wake. -/
theorem test_evtPins : gives (.evtPins 0xEF) hi (fun t => t.inp.pins == 0xEF && t.deb.rem[4] == 25 &&
    t.deb.vote[4] == 0 && t.deb.edgePend == 0 && t.deb.rem[0] == 0) = true := by decide
/-- V-DEB-6: an edge while another lane is debouncing stays in the latch. -/
theorem test_evtPins_sampling : gives (.evtPins 0xEE)
    (lane 4 24 0 { hi with inp := { hi.inp with pins := 0xEF } })
    (fun t => t.deb.edgePend == 0x01 && t.deb.rem[0] == 0 && t.deb.rem[4] == 24) = true := by decide
/-- P1, step 8: 3 of 25 samples read 1, a press. -/
theorem test_evtTick : gives .evtTick (lane 4 1 3 { hi with inp := { hi.inp with pins := 0xEF } })
    (fun t => queueList 8 t.deb.btnq == [0x10] && t.deb.rem[4] == 0 && t.deb.vote[4] == 0) = true := by decide
/-- V-DEB-12: the ninth press, with a head that is not 0. -/
theorem test_evtTick_full :
    gives .evtTick (lane 4 1 0 { withButtons (someQueue 3 8) with inp := { hi.inp with pins := 0xEF } })
      (fun t => t.hof.faultCode == 0x08 && t.hof.faultInfo == 0x10 && t.deb.rem[4] == 1) = true := by decide
/-- 42_uart.md R186 and R189, examples: the load of 0x68 and the first TXE. -/
theorem test_evtBaud16 :
    gives .evtBaud16 { hi with tx := { hi.tx with
        txBusy := true, txCur := 0x20000000, txEnd := 0x20000002, thr := 0x68, thrFull := true } }
      (fun t => t.tx.tsr == 0x68 && !t.tx.txd && t.tx.txAct && t.tx.txCur == 0x20000001 && t.tx.thr == 0x69 &&
        t.tx.thrFull && t.tx.txBusy) = true := by decide
/-- 42_uart.md R199, R201: a byte with a bad stop bit is queued, FE and RXERR rise. -/
theorem test_evtBaud16_receive : gives .evtBaud16 (receiving .stop 15 7 false (someQueue 7 2))
    (fun t => queueList 8 t.rx.rxq == [0x17, 0x10, 0x55] && t.rx.fe && t.hof.irqLat == 0x10 &&
      t.rx.rxSt == .idle) = true := by decide
theorem test_evtRxd : gives (.evtRxd false) hi (fun t => t == { hi with inp := { hi.inp with rxd := false } }) = true := by
  decide
/-- V-I2C-6: arbitration lost on a 1 read as 0; the transaction ends at once. -/
theorem test_evtI2cq_arbitration : gives .evtI2cq
    { sendingI2c .xmit 2 true true .addr true false with
      i2c := { (sendingI2c .xmit 2 true true .addr true false).i2c with bitn := 6 } }
    (fun t => t.i2c.arblst && t.i2c.err && t.i2c.seq == .idle && !t.i2c.i2cBusy && t.i2c.i2cRes &&
      t.hof.irqLat == 0x08) = true := by decide
/-- P3, strobe 113: the last payload byte goes out as RUN|STOP. -/
theorem test_evtI2cq_mdone : gives .evtI2cq
    { sendingI2c .ack 3 true true .data true false with
      i2c := { (sendingI2c .ack 3 true true .data true false).i2c with i2cCur := 0x20000001 } }
    (fun t => t.i2c.mdr == 0x69 && t.i2c.sh == 0x69 && t.i2c.i2cCur == 0x20000002 && t.i2c.pendStop &&
      t.i2c.seq == .xmit && t.i2c.bitn == 7) = true := by decide
theorem test_evtBusext : gives (.evtBusext true false) hi
    (fun t => t == { hi with inp := { hi.inp with sclExt := true, sdaExt := false } }) = true := by decide
/-- V-HS-11. -/
theorem test_evtReset : gives .evtReset halted (fun t => t == hi) = true := by decide
/-- V-UTX-8. -/
theorem test_evtReset_cuts_frame : gives .evtReset (sending 3 5 false)
    (fun t => t.tx.txd && !t.tx.txAct && !t.tx.txBusy) = true := by decide
/-- V-DEC-2 and V-DEC-5. -/
theorem test_evtCmd_illegal : gives (.evtCmd 0x0700000000000000) hi
    (fun t => t.resp == 0x80000000 && t.hof.faultCode == 0x01 && t.hof.faultInfo == 0x0700000000000000) = true := by
  decide
theorem test_evtCmd_reserved : gives (.evtCmd 0x0000000000000001) hi
    (fun t => t.resp == 0x80000000 && t.hof.faultCode == 0x02 && t.hof.faultInfo == 1) = true := by decide
/-- V-DEB-2: the last k that presses, and the first that does not. -/
theorem test_pressVote :
    pressVote Cfg.default 6 = true ∧ pressVote Cfg.default 7 = false ∧
      pressVote { Cfg.default with voteCmp := .floor } 5 = true ∧
      pressVote { Cfg.default with voteCmp := .floor } 6 = false ∧
      pressVote { Cfg.default with window := 1 } 0 = true ∧
      pressVote { Cfg.default with window := 3, voteCmp := .floor } 0 = false := by decide

/-! ## The host's side (30_encoding.md R98, R99; 42_uart.md R206) -/

theorem test_assemble_i2cWrite :
    assembleText "I2C_WRITE 0x40, 0x20000100, 2".toList = .ok 0x3140000220000100 := by decide
theorem test_assemble_i2cSetsa : assembleText "I2C_SETSA 0x3C".toList = .ok 0x3078000000000000 := by decide
/-- 43_i2c.md R233, example: an address grouped with `_`; and digits that are only grouping spell no number. -/
theorem test_assemble_grouped_number :
    assembleText "I2C_WRITE 0x40, 0x2000_0100, 2".toList = .ok 0x3140000220000100 ∧
      assembleText "IRQ_EN 0x_".toList = .error .noSuchLine := by decide
/-- 95_test_vectors.md, program P2: a labelled line with a comment. -/
theorem test_assemble_listing_line :
    assembleText "wait:   STATUS    ; 0x0100, loop while bit 8 = 1".toList = .ok 0x0100000000000000 := by decide
theorem test_assemble_refuses : assembleText "DEB_PEEK 8".toList = .error (.doesNotFit 8) := by decide
/-- 42_uart.md R206, example: "time\r" gives 4 and the buffer "time". -/
theorem test_readUntil :
    hostFeed (uartReadUntil 32 0x0D) ([0x174, 0x169, 0x16D, 0x165, 0x10D]) =
      .finished (.read 4 [0x74, 0x69, 0x6D, 0x65]) := by decide

/-! ## States that have the invariant -/

theorem hof_ok : HofInv Hof.reset := ⟨by decide, by decide, by decide, by decide⟩
theorem deb_ok : DebInv Cfg.default Deb.reset :=
  ⟨by decide, by decide, by decide, by decide, by decide, by decide, by decide, ⟨by decide, by decide⟩⟩
theorem tx_ok : TxInv UartTx.reset := ⟨by decide, by decide, by decide, by decide, by decide⟩
theorem rx_ok : RxInv Cfg.default (UartRx.reset true) := ⟨by decide, ⟨by decide, by decide⟩⟩
theorem i2c_ok : I2cInv I2cm.reset := by constructor <;> decide
theorem inv_hi : StateInv hi := ⟨by decide, by decide, hof_ok, deb_ok, tx_ok, rx_ok, i2c_ok⟩

/-- A transmit state from the helpers above. -/
theorem inv_tx {t : UartTx} (h : TxInv t) : StateInv { hi with tx := t } :=
  ⟨inv_hi.config, inv_hi.memory, hof_ok, deb_ok, h, rx_ok, i2c_ok⟩

theorem inv_i2c {m : I2cm} {i : Inputs} (h : I2cInv m) : StateInv { hi with i2c := m, inp := i } :=
  ⟨inv_hi.config, inv_hi.memory, hof_ok, deb_ok, tx_ok, rx_ok, h⟩

theorem inv_rx {r : UartRx} {i : Inputs} (h : RxInv Cfg.default r) : StateInv { hi with rx := r, inp := i } :=
  ⟨inv_hi.config, inv_hi.memory, hof_ok, deb_ok, tx_ok, h, i2c_ok⟩

/-- A sample is due on lane 4 (its pin reads 0), with these buttons queued. -/
def sampling (rem vote : Byte) (q : Queue) : State :=
  lane 4 rem vote { withButtons q with inp := { hi.inp with pins := 0xEF } }

theorem inv_deb {d : Deb} {i : Inputs} (h : DebInv Cfg.default d) : StateInv { hi with deb := d, inp := i } :=
  ⟨inv_hi.config, inv_hi.memory, hof_ok, h, tx_ok, rx_ok, i2c_ok⟩

theorem inv_sampling_full : StateInv (sampling 1 6 (someQueue 3 8)) :=
  inv_deb ⟨by decide, by decide, by decide, by decide, by decide, by decide, by decide, ⟨by decide, by decide⟩⟩

theorem inv_sampling_last : StateInv (sampling 1 6 (someQueue 7 7)) :=
  inv_deb ⟨by decide, by decide, by decide, by decide, by decide, by decide, by decide, ⟨by decide, by decide⟩⟩

theorem inv_sampling_released : StateInv (sampling 1 7 (someQueue 3 8)) :=
  inv_deb ⟨by decide, by decide, by decide, by decide, by decide, by decide, by decide, ⟨by decide, by decide⟩⟩

/-! ## Witnesses: the hypotheses of each obligation, met by concrete states and operands -/

theorem witness_DecodeEncodeEveryInstruction : (Instr.irqEn 0x9F).wf = true ∧ (Instr.evtCmd 0xFF).wf = true := by decide

theorem witness_CommandWordsDecodeOneToOne :
    decodeCmd64 0x0307000000000000 = .cmd (.debPeek 7) ∧ (Command.debPeek 7).wf = true ∧
      (Command.debPeek 7).word = 0x0307000000000000 := by decide

/-- The clauses meet at opcode 0x06, the last of its block, and 0x07. -/
theorem witness_OpcodeCheckedBeforeReservedFields :
    (∀ m, ((0x0700000000000000 : CmdWord).extractLsb' 56 8, m) ∉ maskTable) ∧
    ((0x06 : Byte), (0xFFFEFFFFFFFFFFFF : CmdWord)) ∈ maskTable ∧
    (0x0602000000000000 : CmdWord) &&& 0xFFFEFFFFFFFFFFFF ≠ (0x06 : Byte).setWidth 64 <<< 56 ∧
    (0x0601000000000000 : CmdWord) &&& 0xFFFEFFFFFFFFFFFF = (0x06 : Byte).setWidth 64 <<< 56 :=
  ⟨by simp [maskTable], by simp [maskTable], by decide, by decide⟩

/-- Tags 0 and 9 on one side, 1 and 8 on the other; payload bits on both sides of the zero fields. -/
theorem witness_MalformedTraceWordsAreRefused :
    hi.cfg.wf = true ∧
    ((0x0000 : EvtWord).extractLsb' 8 8 = 0 ∧ 9 ≤ ((0x0900 : EvtWord).extractLsb' 8 8).toNat) ∧
    (((0x0801 : EvtWord).extractLsb' 8 8).toNat = 8 ∧
      (0x0801 : EvtWord).extractLsb' 0 8 &&& payloadZeros 0x08 ≠ 0) ∧
    (((0x0402 : EvtWord).extractLsb' 8 8).toNat = 4 ∧
      (0x0402 : EvtWord).extractLsb' 0 8 &&& payloadZeros 0x04 ≠ 0) ∧
    (((0x0603 : EvtWord).extractLsb' 8 8).toNat = 6 ∧
      (0x0603 : EvtWord).extractLsb' 0 8 &&& payloadZeros 0x06 = 0) ∧
    (((0x01FF : EvtWord).extractLsb' 8 8).toNat = 1 ∧
      (0x01FF : EvtWord).extractLsb' 0 8 &&& payloadZeros 0x01 = 0) := by decide

theorem witness_StepRunsTheDecodedInstruction :
    hi.cfg.wf = true ∧ readTrace [.half 0x0800, .command 7, .half 0x0200] = .run (.evtCmd 7) [.half 0x0200] 2 ∧
      (Instr.evtBusext true false).wf = true ∧ encode (.evtBusext true false) ++ [] = [.half 0x0601] := by decide

theorem witness_StepStopsOnlyOnBadConfigOrTrace :
    { Cfg.default with window := 0 }.wf = false ∧ hi.cfg.wf = true ∧ hi.pending = [] ∧
      readTrace [.half 0x0900] = .refused (.badTag 0x09) := by decide

/-- A step from a state with input. -/
theorem witness_EveryStepKeepsTheInvariant :
    StateInv { hi with pending := [.half 0x01EF] } ∧
      step { hi with pending := [.half 0x01EF] } =
        .next (after (.evtPins 0xEF) { hi with pending := [], position := 1 }) :=
  ⟨⟨by decide, by decide, hof_ok, deb_ok, tx_ok, rx_ok, i2c_ok⟩, rfl⟩

theorem witness_InvariantHoldsAtLaunch :
    Cfg.default.wf = true ∧ Memory.wf [(0, 0x00), (0xFFFFFFFF, 0x01)] := by decide

theorem witness_InstructionsTouchOnlyTheirUnit : exec .evtTick hi = .next (after .evtTick hi) := rfl

/-- Addresses 0xFFFF_FFFF (not admitted) and 0x2000_0001 (admitted). -/
theorem witness_HostWriteChangesOneAdmittedByte :
    hi.cfg.wf = true ∧
    { hi with pending := [.hostWrite 0xFFFFFFFF 1] }.pending = .hostWrite 0xFFFFFFFF 1 :: [] ∧
    { hi with pending := [.hostWrite 0x20000001 1] }.pending = .hostWrite 0x20000001 1 :: [] := by decide

theorem witness_HaltedBlockAnswersOnlyStatusReads :
    halted.hof.halted = true ∧ (0x0100000000000001 : CmdWord) ≠ 0x0100000000000000 ∧
      (0x0602000000000000 : CmdWord) ≠ 0x0601000000000000 := by decide

/-- A command, CMD(w) and a strobe that fault. -/
theorem witness_FaultDiscardsTheWholeStep :
    (hi.hof.halted = false ∧ exec (.uartTx 0x30000000 1) hi = .next (after (.uartTx 0x30000000 1) hi) ∧
      (after (.uartTx 0x30000000 1) hi).hof.halted = true) ∧
    (exec (.evtCmd 1) hi = .next (after (.evtCmd 1) hi) ∧ (after (.evtCmd 1) hi).hof.halted = true) ∧
    (exec .evtTick (sampling 1 6 (someQueue 3 8)) = .next (after .evtTick (sampling 1 6 (someQueue 3 8))) ∧
      (after .evtTick (sampling 1 6 (someQueue 3 8))).hof.halted = true) :=
  ⟨⟨by decide, rfl, by decide⟩, ⟨rfl, by decide⟩, ⟨rfl, by decide⟩⟩

theorem witness_OnlyResetLeavesTheHaltedState :
    (exec (.irqEn 0x80) halted = .next (after (.irqEn 0x80) halted) ∧ halted.hof.halted = true) ∧
      exec .evtReset halted = .next (after .evtReset halted) := ⟨⟨rfl, by decide⟩, rfl⟩

theorem witness_CommandPortDispatches :
    hi.hof.halted = false ∧ halted.hof.halted = true ∧
    (∀ m, ((0x0700000000000000 : CmdWord).extractLsb' 56 8, m) ∉ maskTable) ∧
    ((0x0420000000000000 : CmdWord).extractLsb' 56 8, (0xFF60FFFFFFFFFFFF : CmdWord)) ∈ maskTable ∧
    (0x0420000000000000 : CmdWord) &&& 0xFF60FFFFFFFFFFFF ≠ (0x04 : Byte).setWidth 64 <<< 56 ∧
    (Command.irqEn 0x9F).wf = true :=
  ⟨by decide, by decide, by simp [maskTable], by simp [maskTable], by decide, by decide⟩

theorem witness_IrqEnWritesTheEnables :
    hi.hof.halted = false ∧ (0x9F : Byte) &&& 0x60 = 0 ∧ (0x20 : Byte) &&& 0x60 ≠ 0 ∧ (0x40 : Byte) &&& 0x60 ≠ 0 := by
  decide

theorem witness_IrqClrIsWriteOneToClear :
    hi.hof.halted = false ∧ (0x9F : Byte) &&& 0x60 = 0 ∧ (0x60 : Byte) &&& 0x60 ≠ 0 := by decide

theorem witness_ReservedMaskTermsActAsTheirWords : (0x20 : Byte) &&& 0x60 ≠ 0 ∧ (0x40 : Byte) &&& 0x60 ≠ 0 := by decide

/-- No fault recorded; a word with a bit of X[7:1] set. -/
theorem witness_FaultInfoAnswersOneHalf :
    (HofInv hi.hof ∧ hi.hof.halted = false) ∧
    (0x0602000000000000 : CmdWord).extractLsb' 56 8 = 0x06 ∧ (0x0602000000000000 : CmdWord).extractLsb' 49 7 ≠ 0 :=
  ⟨⟨hof_ok, by decide⟩, by decide⟩

theorem witness_ButtonPopIsFifo :
    (hi.hof.halted = false ∧ QueueInv hi.cfg.btnqCap hi.deb.btnq ∧ hi.deb.btnq.count = 0) ∧
    (QueueInv 8 (someQueue 7 8) ∧ queueList 8 (someQueue 7 8) = 0x17 :: [0x10, 0x11, 0x12, 0x13, 0x14, 0x15, 0x16]) :=
  ⟨⟨by decide, ⟨by decide, by decide⟩, by decide⟩, ⟨⟨by decide, by decide⟩, by decide⟩⟩

/-- The last lane; a word with a bit of X[7:3] set; a lane outside BTN_MASK (0x11). -/
theorem witness_DebPeekShowsOneLane :
    (hi.hof.halted = false ∧ (7 : Fin 8).val = (7 : BitVec 3).toNat) ∧
    ((0x0308000000000000 : CmdWord).extractLsb' 56 8 = 0x03 ∧ (0x0308000000000000 : CmdWord).extractLsb' 51 5 ≠ 0) ∧
    (DebInv hi.cfg hi.deb ∧ hi.cfg.btnMask.getLsbD (7 : BitVec 3).toNat = false) :=
  ⟨by decide, by decide, deb_ok, by decide⟩

theorem witness_PinsCaptureAndWake :
    hi.hof.halted = false ∧ (∀ i : Fin 8, hi.deb.rem[i] = 0) ∧
      ∃ i : Fin 8, (sampling 1 6 (someQueue 3 8)).deb.rem[i] ≠ 0 := by decide

/-- Parked; a press on a full queue; a press on a queue with one place left; no press on a full queue (6 and 7 of 25). -/
theorem witness_TickVotesCountsAndFinalizes :
    (StateInv hi ∧ ∀ i : Fin 8, hi.deb.rem[i] = 0) ∧
    (StateInv (sampling 1 6 (someQueue 3 8)) ∧ (sampling 1 6 (someQueue 3 8)).deb.rem[4] = 1 ∧ 4 * 6 < 25 ∧
      (sampling 1 6 (someQueue 3 8)).deb.btnq.count.toNat = 8) ∧
    (StateInv (sampling 1 6 (someQueue 7 7)) ∧ (sampling 1 6 (someQueue 7 7)).deb.btnq.count.toNat ≠ 8) ∧
    (StateInv (sampling 1 7 (someQueue 3 8)) ∧ ¬ 4 * 7 < 25) :=
  ⟨⟨inv_hi, by decide⟩, ⟨inv_sampling_full, by decide⟩, ⟨inv_sampling_last, by decide⟩,
    ⟨inv_sampling_released, by decide⟩⟩

/-- One button lane, a window of two samples. -/
def shortWindow : State :=
  { lane 4 2 0 hi with cfg := { Cfg.default with window := 2, btnMask := 0x10 } }

theorem witness_WindowIsDecidedByTheCount :
    StateInv shortWindow ∧ shortWindow.hof.halted = false ∧ shortWindow.cfg.btnMask = 1#8 <<< (4 : Fin 8).val ∧
      shortWindow.deb.rem[4].toNat = shortWindow.cfg.window ∧ shortWindow.deb.vote[4] = 0 ∧
      shortWindow.deb.btnq.count.toNat ≠ shortWindow.cfg.btnqCap ∧
      ([0xEF, 0xFF] : List Byte).length = shortWindow.cfg.window :=
  ⟨⟨by decide, by decide, hof_ok,
      ⟨by decide, by decide, by decide, by decide, by decide, by decide, by decide, ⟨by decide, by decide⟩⟩,
      tx_ok, ⟨by decide, ⟨by decide, by decide⟩⟩, i2c_ok⟩, by decide⟩

/-- V-DEC-11 and V-DEC-12: `P + N` at 2^32 and at 2^32 - 1. -/
theorem witness_UartTxArmsOrFaults :
    hi.hof.halted = false ∧ (sending 0 0 false).tx.txBusy = true ∧ hi.tx.txBusy = false ∧
    0xFFFFFFFF < (0xFFFFFFFF : Addr).toNat + (1 : BitVec 16).toNat ∧
    (0xFFFFFFFE : Addr).toNat + (1 : BitVec 16).toNat ≤ 0xFFFFFFFF ∧
    memGet hi.mem (0xFFFFFFFE : Addr).toNat = none ∧
    memGet [(0xFFFFFFFE, 0x41)] (0xFFFFFFFE : Addr).toNat = some 0x41 := by decide

/-- Within a bit, at a bit's end, the last bit and its end, idle, a load that reads, that completes, that faults. -/
theorem witness_TransmitStrobe :
    ((sending 0 14 false).tx.txAct = true ∧ (sending 0 14 false).tx.txPre ≠ 15) ∧
    ((sending 8 15 false).tx.txPre = 15 ∧ (sending 8 15 false).tx.txBit ≠ 9) ∧
    ((sendingLast 9 15 true).tx.txBit = 9 ∧ (sendingLast 9 15 true).tx.thrFull = false) ∧
    (hi.tx.txAct = false ∧ hi.tx.thrFull = false) ∧
    ((sending 9 15 true).tx.thrFull = true ∧ (sending 9 15 true).tx.txCur + 1 ≠ (sending 9 15 true).tx.txEnd ∧
      memGet hi.mem ((sending 9 15 true).tx.txCur + 1).toNat = some 0x69) ∧
    ({ (sending 9 15 true).tx with txCur := 0x20000001 }.txCur + 1 = (sending 9 15 true).tx.txEnd) ∧
    memGet [] ((sending 9 15 true).tx.txCur + 1).toNat = none := by decide

/-- The stop bit's sample, with a place left and with a full queue. -/
theorem witness_ReceiveStrobe :
    (StateInv (receiving .stop 15 7 false (someQueue 7 7)) ∧
      exec .evtBaud16 (receiving .stop 15 7 false (someQueue 7 7)) =
        .next (after .evtBaud16 (receiving .stop 15 7 false (someQueue 7 7))) ∧
      (after .evtBaud16 (receiving .stop 15 7 false (someQueue 7 7))).hof.halted = false) ∧
    (StateInv (receiving .stop 15 7 true (someQueue 7 8)) ∧
      (receiving .stop 15 7 true (someQueue 7 8)).rx.rxq.count.toNat = 8) ∧
    (StateInv (receiving .start 7 0 false (someQueue 0 0)) ∧ StateInv (receiving .data 15 7 true (someQueue 0 0)) ∧
      StateInv (receiving .data 14 0 true (someQueue 0 0)) ∧ StateInv (receiving .idle 0 0 false (someQueue 0 0))) :=
  ⟨⟨inv_rx ⟨by decide, ⟨by decide, by decide⟩⟩, rfl, by decide⟩,
    ⟨inv_rx ⟨by decide, ⟨by decide, by decide⟩⟩, by decide⟩,
    inv_rx ⟨by decide, ⟨by decide, by decide⟩⟩, inv_rx ⟨by decide, ⟨by decide, by decide⟩⟩,
    inv_rx ⟨by decide, ⟨by decide, by decide⟩⟩, inv_rx ⟨by decide, ⟨by decide, by decide⟩⟩⟩

theorem witness_FrameOnTheWire :
    (StateInv (sending 0 0 false) ∧ (sending 0 0 false).tx.txAct = true) ∧
      (StateInv (sendingLast 0 0 false) ∧ (sendingLast 0 0 false).tx.thrFull = false) :=
  ⟨⟨inv_tx ⟨by decide, by decide, by decide, by decide, by decide⟩, by decide⟩,
    ⟨inv_tx ⟨by decide, by decide, by decide, by decide, by decide⟩, by decide⟩⟩

theorem witness_UartTransferSendsTheBuffer :
    StateInv hi ∧ hi.hof.halted = false ∧ hi.tx.txBusy = false ∧ hi.tx.txAct = false ∧
      (0x20000000 : Addr).toNat + (2 : BitVec 16).toNat ≤ 0xFFFFFFFF ∧
      (∀ k, k < (2 : BitVec 16).toNat → memGet hi.mem ((0x20000000 : Addr).toNat + k) =
        some (if k = 0 then 0x68 else 0x69)) ∧ 1 < (2 : BitVec 16).toNat :=
  ⟨inv_hi, by decide⟩

theorem witness_ReceivedByteIsTheMidBitSamples :
    StateInv (receiving .start 0 0 false (someQueue 7 7)) ∧
      (receiving .start 0 0 false (someQueue 7 7)).hof.halted = false ∧
      (receiving .start 0 0 false (someQueue 7 7)).tx.txBusy = false ∧
      (receiving .start 0 0 false (someQueue 7 7)).tx.txAct = false ∧
      (receiving .start 0 0 false (someQueue 7 7)).rx.rxq.count.toNat ≠ 8 :=
  ⟨inv_rx ⟨by decide, ⟨by decide, by decide⟩⟩, by decide⟩

theorem witness_ReceivePopIsFifo :
    (hi.hof.halted = false ∧ QueueInv hi.cfg.rxqCap hi.rx.rxq ∧ hi.rx.rxq.count = 0) ∧
    (QueueInv 8 (receiving .idle 0 0 true (someQueue 7 1)).rx.rxq ∧
      queueList 8 (receiving .idle 0 0 true (someQueue 7 1)).rx.rxq = 0x17 :: []) :=
  ⟨⟨by decide, ⟨by decide, by decide⟩, by decide⟩, ⟨⟨by decide, by decide⟩, by decide⟩⟩

/-- Two states that agree on the transmit half and differ on the other, and the reverse. -/
theorem witness_UartHalvesAreIndependent :
    (hi.tx = (receiving .stop 15 7 false (someQueue 7 8)).tx ∧ hi.mem = (receiving .stop 15 7 false (someQueue 7 8)).mem ∧
      exec .evtBaud16 hi = .next (after .evtBaud16 hi) ∧
      exec .evtBaud16 (receiving .stop 15 7 false (someQueue 7 8)) =
        .next (after .evtBaud16 (receiving .stop 15 7 false (someQueue 7 8)))) ∧
    (hi.rx = (sending 9 15 true).rx ∧ hi.inp.rxd = (sending 9 15 true).inp.rxd ∧ hi.cfg = (sending 9 15 true).cfg ∧
      (after .evtBaud16 (sending 9 15 true)).hof.halted = false) :=
  ⟨⟨by decide, by decide, rfl, rfl⟩, by decide⟩

theorem witness_I2cSetsaWritesOrFaults :
    hi.hof.halted = false ∧ (sendingI2c .ack 0 false false .addr true true).i2c.i2cBusy = true ∧
      hi.i2c.i2cBusy = false ∧ (0x79 : Byte)[0] = true ∧ (0x78 : Byte)[0] = false := by decide

theorem witness_I2cWriteArmsOrFaults :
    hi.hof.halted = false ∧ hi.i2c.i2cBusy = false ∧
      0xFFFFFFFF < (0xFFFFFFFF : Addr).toNat + (1 : BitVec 16).toNat ∧
      (0xFFFFFFFF : Addr).toNat + (0 : BitVec 16).toNat ≤ 0xFFFFFFFF := by decide

theorem witness_I2cWriteOneArmsOrFaults :
    hi.hof.halted = false ∧ hi.i2c.i2cBusy = false ∧
      (sendingI2c .ack 0 false false .addr true true).i2c.i2cBusy = true := by decide

theorem witness_EmptyWriteBehavesAsWriteOne : hi.hof.halted = false ∧ hi.i2c.i2cBusy = false := by decide

theorem witness_WaitbusAndStartSlot :
    (hi.hof.halted = false ∧ hi.i2c.seq = .idle) ∧
      (sendingI2c .waitbus 0 true true .addr true false).i2c.seq = .waitbus ∧
      (sendingI2c .start 3 true false .addr true true).i2c.ph = 3 := by decide

theorem witness_XmitSlot :
    ((sendingI2c .xmit 0 false true .addr true true).i2c.seq = .xmit ∧
      (sendingI2c .xmit 0 false true .addr true true).hof.halted = false) ∧
    ((sendingI2c .xmit 2 true true .addr false true).i2c.sclDrv &&
      (sendingI2c .xmit 2 true true .addr false true).inp.sclExt) = false ∧
    ((sendingI2c .xmit 2 true true .addr true false).i2c.sdaDrv &&
      (sendingI2c .xmit 2 true true .addr true false).inp.sdaExt) = false ∧
    (0x78 : Byte).getLsbD 6 = true ∧ (0x78 : Byte).getLsbD 7 = false ∧
    (sendingI2c .xmit 3 true true .addr true true).i2c.bitn ≠ 0 := by decide

theorem witness_AckSlot :
    StateInv (sendingI2c .ack 0 false false .addr true true) ∧ StateInv (sendingI2c .ack 1 false true .addr true true) ∧
    StateInv (sendingI2c .ack 2 true true .addr false true) ∧ StateInv (sendingI2c .ack 2 true true .addr true false) ∧
    StateInv (sendingI2c .ack 2 true true .addr true true) ∧ StateInv (sendingI2c .ack 2 true true .data true true) ∧
    StateInv (lastI2c .ack 3 true true true true true) ∧ StateInv (sendingI2c .ack 3 true true .addr true true) ∧
    StateInv (lastI2c .ack 3 true true false true true) ∧
    (StateInv (sendingI2c .ack 3 true true .data true true) ∧
      memGet hi.mem (sendingI2c .ack 3 true true .data true true).i2c.i2cCur.toNat = some 0x68) := by
  refine ⟨inv_i2c ?_, inv_i2c ?_, inv_i2c ?_, inv_i2c ?_, inv_i2c ?_, inv_i2c ?_, inv_i2c ?_, inv_i2c ?_, inv_i2c ?_,
    inv_i2c ?_, by decide⟩ <;> constructor <;> decide

/-- The byte at the cursor is not admitted. -/
theorem witness_AckSlot_unread :
    StateInv { sendingI2c .ack 3 true true .data true true with mem := [] } ∧
      memGet [] (sendingI2c .ack 3 true true .data true true).i2c.i2cCur.toNat = none :=
  ⟨⟨by decide, by decide, hof_ok, deb_ok, tx_ok, rx_ok, by constructor <;> decide⟩, by decide⟩

theorem witness_StopSlot :
    StateInv (lastI2c .stop 0 false true false true true) ∧ StateInv (lastI2c .stop 1 false false false true true) ∧
    StateInv (lastI2c .stop 2 true false false false true) ∧ StateInv (lastI2c .stop 2 true false true true true) ∧
    StateInv (lastI2c .stop 3 true false true true true) := by
  refine ⟨inv_i2c ?_, inv_i2c ?_, inv_i2c ?_, inv_i2c ?_, inv_i2c ?_⟩ <;> constructor <;> decide

theorem witness_I2cByteOnTheWire :
    StateInv (sendingI2c .xmit 0 false true .addr true true) ∧
      (sendingI2c .xmit 0 false true .addr true true).i2c.bitn = 7 ∧
      (sendingI2c .xmit 0 false true .addr true true).inp.sclExt = true :=
  ⟨inv_i2c (by constructor <;> decide), by decide⟩

/-- SDA moves under a low SCL, and at a START. -/
theorem witness_SdaMovesOnlyUnderLowScl :
    (StateInv (sendingI2c .xmit 0 false true .addr true true) ∧
      exec .evtI2cq (sendingI2c .xmit 0 false true .addr true true) =
        .next (after .evtI2cq (sendingI2c .xmit 0 false true .addr true true)) ∧
      (after .evtI2cq (sendingI2c .xmit 0 false true .addr true true)).i2c.sdaDrv = false) ∧
    (StateInv (sendingI2c .start 0 true true .addr true true) ∧
      (after .evtI2cq (sendingI2c .start 0 true true .addr true true)).i2c.sdaDrv = false) :=
  ⟨⟨inv_i2c (by constructor <;> decide), rfl, by decide⟩, inv_i2c (by constructor <;> decide), by decide⟩

/-- The flag is 0 before the instruction and 1 in its next state. -/
def rises (i : Instr) (s : State) (f : State → Bool) : Bool := !f s && gives i s f

/-- The flag is 1 before the instruction and 0 in its next state. -/
def falls (i : Instr) (s : State) (f : State → Bool) : Bool := f s && gives i s fun t => !f t

/-- `hi` with every latch, error flag and bus error flag set, and the result bit with them. -/
def flagged : State :=
  { hi with
    hof := { hi.hof with irqLat := 0x1A }
    rx := { hi.rx with fe := true, oe := true }
    i2c := { hi.i2c with i2cRes := true, err := true, adrack := true, datack := true, arblst := true } }

/-- The last byte of a transfer is about to enter the shifter. -/
def sendingEnd : State :=
  { sending 9 15 true with tx := { (sending 9 15 true).tx with txCur := 0x20000001 } }

/-- The master sends bit 6 of 0x78, a 1, while another device drives SDA low. -/
def losingI2c : State :=
  { sendingI2c .xmit 2 true true .addr true false with
    i2c := { (sendingI2c .xmit 2 true true .addr true false).i2c with bitn := 6 } }

/-- The ways up, and busy's way down: the flags of the UART. -/
theorem witness_LatchesMoveOnlyByTheirEvents :
    rises (.uartTx 0x20000000 1) hi (·.tx.txBusy) = true ∧
    rises .evtBaud16 sendingEnd (·.hof.irqLat[1]) = true ∧ falls .evtBaud16 sendingEnd (·.tx.txBusy) = true ∧
    rises .evtBaud16 (receiving .stop 15 7 false (someQueue 0 0)) (·.rx.fe) = true ∧
    rises .evtBaud16 (receiving .stop 15 7 false (someQueue 0 0)) (·.hof.irqLat[4]) = true ∧
    rises .evtBaud16 (receiving .stop 15 7 true (someQueue 0 8)) (·.rx.oe) = true := by decide

/-- The flags of the I2C master, each cause of an error among them. -/
theorem witness_LatchesMoveOnlyByTheirEvents_i2c_rise :
    rises (.i2cWrite 0x40 0x20000000 2) hi (·.i2c.i2cBusy) = true ∧ rises (.i2cWriteOne 0x42) hi (·.i2c.i2cBusy) = true ∧
    falls .evtI2cq (lastI2c .stop 3 true false true true true) (·.i2c.i2cBusy) = true ∧
    rises .evtI2cq (lastI2c .stop 3 true false true true true) (·.hof.irqLat[3]) = true ∧
    rises .evtI2cq (lastI2c .stop 3 true false true true true) (·.i2c.i2cRes) = true ∧
    rises .evtI2cq (sendingI2c .ack 2 true true .addr true true) (·.i2c.err) = true ∧
    rises .evtI2cq (sendingI2c .ack 2 true true .addr true true) (·.i2c.adrack) = true ∧
    rises .evtI2cq (sendingI2c .ack 2 true true .data true true) (·.i2c.datack) = true ∧
    rises .evtI2cq losingI2c (·.i2c.arblst) = true := by decide

/-- The ways down: write-one-to-clear, the next start command, RESET. -/
theorem witness_LatchesMoveOnlyByTheirEvents_fall :
    falls (.irqClr 0x02) flagged (·.hof.irqLat[1]) = true ∧ falls (.irqClr 0x08) flagged (·.hof.irqLat[3]) = true ∧
    falls (.irqClr 0x10) flagged (·.hof.irqLat[4]) = true ∧ falls (.irqClr 0x10) flagged (·.rx.fe) = true ∧
    falls (.irqClr 0x10) flagged (·.rx.oe) = true ∧ falls (.uartTx 0x20000000 1) flagged (·.hof.irqLat[1]) = true ∧
    falls (.i2cWrite 0x40 0x20000000 2) flagged (·.i2c.err) = true ∧
    falls (.i2cWriteOne 0x42) flagged (·.i2c.adrack) = true ∧ falls (.i2cWriteOne 0x42) flagged (·.i2c.datack) = true ∧
    falls (.i2cWriteOne 0x42) flagged (·.i2c.arblst) = true ∧ falls (.i2cWriteOne 0x42) flagged (·.hof.irqLat[3]) = true ∧
    falls .evtReset flagged (·.i2c.i2cRes) = true := by decide

theorem witness_QuiescentBlockIgnoresStrobes : StateInv hi ∧ quiescent hi = true ∧ hi.inp.rxd = true :=
  ⟨inv_hi, by decide⟩

/-- One character short of the maximum, and exactly the maximum. -/
theorem witness_ReadUntilCopiesUpToTheDelimiter :
    (0x0D : Byte) ∉ ([0x74, 0x69, 0x6D, 0x65] : List Byte) ∧ ([0x74, 0x69, 0x6D, 0x65] : List Byte).length < 5 ∧
      ([0x74, 0x69, 0x6D, 0x65] : List Byte).length = 4 := by decide

theorem witness_HostProceduresFollowTheirExpansions :
    (0x00000300 : Resp)[8] = true ∧ (0x02000200 : Resp)[8] = false ∧ (0x00000400 : Resp)[10] = true ∧
      (0x08000800 : Resp)[10] = false := by decide

/-- Each bound of a field from both sides. -/
theorem witness_AssembledWordsCarryTheirOperands :
    (127 < 128 ∧ 128 ≤ 128) ∧ (2 ^ 32 - 1 < 2 ^ 32 ∧ 2 ^ 32 ≤ 2 ^ 32) ∧ (2 ^ 16 - 1 < 2 ^ 16 ∧ 2 ^ 16 ≤ 2 ^ 16) ∧
      (255 < 256 ∧ 256 ≤ 256) ∧ (7 < 8 ∧ 8 ≤ 8) ∧ (1 < 2 ∧ 2 ≤ 2) := by decide

end Sys2Proof.Tests
end

section
/-! SUPPORT. When a handler answers, and what it answers then: one lemma per handler that can fault. Every instruction
has a next state, and every instruction is a command or one of the eight stimuli. -/

namespace Sys2Proof.Machine

/-! ## Handlers -/

theorem tickHandler_ok {s t : State} (h : tickHandler s = .ok t) :
    (parked s.deb = true ∧ t = s) ∨
    (parked s.deb = false ∧ ∃ d, debTick s.cfg s.inp.pins s.deb = .ok d ∧ t = s.setDeb d) := by
  unfold tickHandler at h
  cases hp : parked s.deb
  · cases hd : debTick s.cfg s.inp.pins s.deb with
    | ok d => exact .inr ⟨rfl, d, rfl, by simpa [hp, hd] using h.symm⟩
    | error f => simp [hp, hd] at h
  · exact .inl ⟨rfl, by simpa [hp] using h.symm⟩

theorem irqEnHandler_ok {mask : Byte} {s t : State} (h : irqEnHandler mask s = .ok t) :
    irqMaskOk mask = true ∧ t = (s.setHof { s.hof with irqEn := mask }).respond 0#32 := by
  unfold irqEnHandler at h
  split at h
  next hm => exact ⟨hm, (Except.ok.inj h).symm⟩
  next => cases h

theorem irqClrHandler_ok {mask : Byte} {s t : State} (h : irqClrHandler mask s = .ok t) :
    irqMaskOk mask = true ∧ t = (irqClear mask s).respond 0#32 := by
  unfold irqClrHandler at h
  split at h
  next hm => exact ⟨hm, (Except.ok.inj h).symm⟩
  next => cases h

theorem i2cSetsaHandler_ok {msa : Byte} {s t : State} (h : i2cSetsaHandler msa s = .ok t) :
    s.i2c.i2cBusy = false ∧ msa[0] = false ∧ t = (s.setI2c { s.i2c with msa := msa }).respond 0#32 := by
  unfold i2cSetsaHandler at h
  split at h
  next => cases h
  next hb =>
    split at h
    next => cases h
    next hr => exact ⟨by simpa using hb, by simpa using hr, (Except.ok.inj h).symm⟩

theorem i2cWriteHandler_ok {ctrl : Byte} {p : Addr} {n : BitVec 16} {s t : State}
    (h : i2cWriteHandler ctrl p n s = .ok t) :
    s.i2c.i2cBusy = false ∧ bufWraps p n = false ∧
      t = i2cStart p (bufEnd p n) ctrl (if n = 0#16 then .startRunStop else .startRun) s := by
  unfold i2cWriteHandler at h
  split at h
  next => cases h
  next hb =>
    split at h
    next => cases h
    next hw => exact ⟨by simpa using hb, by simpa using hw, (Except.ok.inj h).symm⟩

theorem i2cWriteOneHandler_ok {byte : Byte} {s t : State} (h : i2cWriteOneHandler byte s = .ok t) :
    s.i2c.i2cBusy = false ∧ t = i2cStart 0#32 0#32 byte .startRunStop s := by
  unfold i2cWriteOneHandler at h
  split at h
  next => cases h
  next hb => exact ⟨by simpa using hb, (Except.ok.inj h).symm⟩

theorem i2cqHandler_ok {s t : State} (h : i2cqHandler s = .ok t) :
    ∃ m done, seqStep s.mem (sclLevel s.inp s.i2c) (sdaLevel s.inp s.i2c) s.i2c = .ok (m, done) ∧
      t = (s.setI2c m).setHof (latchIf done s.hof latI2cDone) := by
  unfold i2cqHandler at h
  split at h
  next m done hs => exact ⟨m, done, hs, (Except.ok.inj h).symm⟩
  next => cases h

theorem uartTxHandler_ok {p : Addr} {n : BitVec 16} {s t : State} (h : uartTxHandler p n s = .ok t) :
    s.tx.txBusy = false ∧ n ≠ 0#16 ∧ bufWraps p n = false ∧ ∃ b, memRead s.mem p = .ok b ∧
      t = ((s.setTx (txStart p n b s.tx)).setHof (unlatch s.hof latTxDone)).respond 0#32 := by
  unfold uartTxHandler at h
  split at h
  next => cases h
  next hb =>
    split at h
    next => cases h
    next hn =>
      split at h
      next => cases h
      next hw =>
        split at h
        next b hm => exact ⟨by simpa using hb, hn, by simpa using hw, b, hm, (Except.ok.inj h).symm⟩
        next => cases h

theorem baudHandler_ok {s t : State} (h : baudHandler s = .ok t) :
    ∃ x done, txStep s.mem s.tx = .ok (x, done) ∧
      t = ((s.setTx x).setRx (rxStep s.cfg s.inp.rxd s.rx).1).setHof
        (latchIf (rxStep s.cfg s.inp.rxd s.rx).2 (latchIf done s.hof latTxDone) latRxErr) := by
  unfold baudHandler at h
  split at h
  next x done hs => exact ⟨x, done, hs, (Except.ok.inj h).symm⟩
  next => cases h

/-! ## Instructions -/

/-- An instruction is one of the 13 commands (30_encoding.md R82) or one of the 8 stimuli (R91). -/
theorem command_or_stimulus (i : Instr) :
    (∃ c : Command, i = c.toInstr) ∨ (∃ v, i = .evtPins v) ∨ i = .evtTick ∨ i = .evtBaud16 ∨ (∃ b, i = .evtRxd b) ∨
      i = .evtI2cq ∨ (∃ c d, i = .evtBusext c d) ∨ i = .evtReset ∨ ∃ w, i = .evtCmd w := by
  cases hc : i.command? with
  | some c => exact .inl ⟨c, by cases i <;> cases hc <;> rfl⟩
  | none => cases i <;> simp [Instr.command?] at hc ⊢

@[simp] theorem exec_toInstr (c : Command) (s : State) : exec c.toInstr s = runCommand c s := by
  cases c <;> rfl

/-- CMD(w) (40_handoff.md R111): a decode fault through the halt gate, or the decoded command. -/
theorem exec_evtCmd_cases (w : CmdWord) (s : State) :
    (∃ f : FaultRecord, exec (.evtCmd w) s = .next (onCommand s (.error f))) ∨
    ∃ c, decodeCmd64 w = .cmd c ∧ exec (.evtCmd w) s = runCommand c s := by
  have he : exec (.evtCmd w) s = execEvtCmd w s := rfl
  rw [he, execEvtCmd]
  cases decodeCmd64 w with
  | illegal op => exact .inl ⟨_, rfl⟩
  | reserved op => exact .inl ⟨_, rfl⟩
  | cmd c => exact .inr ⟨c, rfl, rfl⟩

/-- Every command has a next state: a fault is one too (60_exceptions.md R303). -/
theorem runCommand_next (c : Command) (s : State) : ∃ t, runCommand c s = .next t := by
  cases c <;> exact ⟨_, rfl⟩

/-- Every instruction has a next state (70_reset_and_hazards.md R342). -/
theorem exec_next (i : Instr) (s : State) : ∃ t, exec i s = .next t := by
  cases i with
  | evtCmd w =>
    obtain ⟨f, h⟩ | ⟨c, -, h⟩ := exec_evtCmd_cases w s
    · exact ⟨_, h⟩
    · exact h ▸ runCommand_next c s
  | _ => exact ⟨_, rfl⟩

end Sys2Proof.Machine
end

section
/-! The step as a whole (00_scope.md R8; 30_encoding.md R92; 70_reset_and_hazards.md R342). -/

namespace Sys2Proof.Machine

theorem step_of_illegalConfig {s : State} (hw : s.cfg.wf = false) : step s = .refused .illegalConfig := by
  simp [step, hw]

theorem step_of_pending_nil {s : State} (hw : s.cfg.wf = true) (hp : s.pending = []) : step s = .next s := by
  simp [step, fetch, hw, hp]

theorem step_next_or_badTrace {s : State} (hw : s.cfg.wf = true) :
    (∃ t, step s = .next t) ∨
      ∃ e, readTrace s.pending = .refused e ∧ step s = .refused (.badTrace s.position e) := by
  obtain ⟨hw', -⟩ | ⟨-, -, h⟩ | ⟨-, a, b, rest, -, h⟩ | ⟨-, i, rest, used, -, h⟩ | ⟨-, e, hf, h⟩ := step_cases s
  · simp [hw] at hw'
  · exact .inl ⟨_, h⟩
  · exact .inl ⟨_, h⟩
  · exact .inl (h ▸ exec_next i _)
  · exact .inr ⟨e, hf, h⟩

/-- Settles O7: the five cases of a step, and that every instruction has a next state. -/
theorem stepStopsOnlyOnBadConfigOrTrace : Obligations.StepStopsOnlyOnBadConfigOrTrace :=
  fun _ => ⟨step_of_illegalConfig, step_of_pending_nil, step_next_or_badTrace⟩

end Sys2Proof.Machine
end

section
/-! The frame of the whole instruction set: which parts of the state each instruction writes (the written-by columns of
10_state.md R22 to R41), and that it writes no other. -/

namespace Sys2Proof.Machine

/-- A part of the state that some instruction writes. Configuration, memory and input are no part: none does. -/
inductive StatePart where
  | inp
  | deb
  | tx
  | rx
  | i2c
  | resp
  | irqEn
  /-- `fault_code` and `fault_info`, written apart from fault entry -/
  | faultRecord
  /-- the bits of `irq_lat` that are no latched cause (10_state.md R22) -/
  | unusedLatches

/-- From `s` to `t` nothing moved but the parts in `ps`, the latched causes and, by fault entry, the fault record. -/
structure OnlyWrites (ps : List StatePart) (s t : State) : Prop where
  cfg : t.cfg = s.cfg
  mem : t.mem = s.mem
  pending : t.pending = s.pending
  position : t.position = s.position
  inp : t.inp = s.inp ∨ .inp ∈ ps
  deb : t.deb = s.deb ∨ .deb ∈ ps
  tx : t.tx = s.tx ∨ .tx ∈ ps
  rx : t.rx = s.rx ∨ .rx ∈ ps
  i2c : t.i2c = s.i2c ∨ .i2c ∈ ps
  resp : t.resp = s.resp ∨ .resp ∈ ps
  irqEn : t.hof.irqEn = s.hof.irqEn ∨ .irqEn ∈ ps
  faultRecord : (t.hof.halted = s.hof.halted →
    t.hof.faultCode = s.hof.faultCode ∧ t.hof.faultInfo = s.hof.faultInfo) ∨ .faultRecord ∈ ps
  unusedLatches : t.hof.irqLat &&& 0xE5#8 = s.hof.irqLat &&& 0xE5#8 ∨ .unusedLatches ∈ ps

/-- The parts each instruction may write. CMD(w) may run any command. -/
def writtenParts : Instr → List StatePart
  | .nop => [.resp]
  | .status => [.resp]
  | .xstatus => [.resp]
  | .debPeek _ => [.resp]
  | .irqEn _ => [.irqEn, .resp]
  | .irqClr _ => [.rx, .resp]
  | .faultInfo _ => [.resp]
  | .btnPop => [.deb, .resp]
  | .uartTx _ _ => [.tx, .resp]
  | .uartRxPop => [.rx, .resp]
  | .i2cSetsa _ => [.i2c, .resp]
  | .i2cWrite _ _ _ => [.i2c, .resp]
  | .i2cWriteOne _ => [.i2c, .resp]
  | .evtPins _ => [.inp, .deb]
  | .evtTick => [.deb]
  | .evtBaud16 => [.tx, .rx]
  | .evtRxd _ => [.inp]
  | .evtI2cq => [.i2c]
  | .evtBusext _ _ => [.inp]
  | .evtReset => [.deb, .tx, .rx, .i2c, .irqEn, .faultRecord, .unusedLatches]
  | .evtCmd _ => [.deb, .tx, .rx, .i2c, .irqEn, .resp]

/-! ## The state's operations -/

section
variable {ps : List StatePart} {s t : State}

theorem OnlyWrites.refl (ps : List StatePart) (s : State) : OnlyWrites ps s s :=
  ⟨rfl, rfl, rfl, rfl, .inl rfl, .inl rfl, .inl rfl, .inl rfl, .inl rfl, .inl rfl, .inl rfl, .inl fun _ => ⟨rfl, rfl⟩,
    .inl rfl⟩

theorem OnlyWrites.mono {qs : List StatePart} (k : OnlyWrites ps s t) (hs : ps ⊆ qs) : OnlyWrites qs s t :=
  { k with
    inp := k.inp.imp_right (hs ·)
    deb := k.deb.imp_right (hs ·)
    tx := k.tx.imp_right (hs ·)
    rx := k.rx.imp_right (hs ·)
    i2c := k.i2c.imp_right (hs ·)
    resp := k.resp.imp_right (hs ·)
    irqEn := k.irqEn.imp_right (hs ·)
    faultRecord := k.faultRecord.imp_right (hs ·)
    unusedLatches := k.unusedLatches.imp_right (hs ·) }

theorem OnlyWrites.respond (k : OnlyWrites ps s t) (v : Resp) (h : .resp ∈ ps) : OnlyWrites ps s (t.respond v) :=
  { k with resp := .inr h }

theorem OnlyWrites.setInp (k : OnlyWrites ps s t) (i : Inputs) (h : .inp ∈ ps) : OnlyWrites ps s (t.setInp i) :=
  { k with inp := .inr h }

theorem OnlyWrites.setDeb (k : OnlyWrites ps s t) (d : Deb) (h : .deb ∈ ps) : OnlyWrites ps s (t.setDeb d) :=
  { k with deb := .inr h }

theorem OnlyWrites.setTx (k : OnlyWrites ps s t) (x : UartTx) (h : .tx ∈ ps) : OnlyWrites ps s (t.setTx x) :=
  { k with tx := .inr h }

theorem OnlyWrites.setRx (k : OnlyWrites ps s t) (r : UartRx) (h : .rx ∈ ps) : OnlyWrites ps s (t.setRx r) :=
  { k with rx := .inr h }

theorem OnlyWrites.setI2c (k : OnlyWrites ps s t) (m : I2cm) (h : .i2c ∈ ps) : OnlyWrites ps s (t.setI2c m) :=
  { k with i2c := .inr h }

theorem OnlyWrites.setIrqEn (k : OnlyWrites ps s t) (mask : Byte) (h : .irqEn ∈ ps) :
    OnlyWrites ps s (t.setHof { t.hof with irqEn := mask }) :=
  { k with irqEn := .inr h }

/-- Clearing bits `m` leaves the bits of `e` if the two masks share none. -/
theorem and_not_and_of_disjoint {w : Nat} {x m e : BitVec w} (h : m &&& e = 0#w) : x &&& ~~~m &&& e = x &&& e := by
  ext i hi
  have hb : (m[i] && e[i]) = false := by simpa using congrArg (·[i]) h
  cases he : e[i] <;> simp_all

/-- Setting bits `m` leaves the bits of `e` if the two masks share none. -/
theorem or_and_of_disjoint {w : Nat} {x m e : BitVec w} (h : m &&& e = 0#w) : (x ||| m) &&& e = x &&& e := by
  ext i hi
  have hb : (m[i] && e[i]) = false := by simpa using congrArg (·[i]) h
  cases he : e[i] <;> simp_all

theorem OnlyWrites.unlatch (k : OnlyWrites ps s t) {m : Byte} (h : m &&& 0xE5#8 = 0#8) :
    OnlyWrites ps s (t.setHof (unlatch t.hof m)) :=
  { k with unusedLatches := k.unusedLatches.imp_left ((and_not_and_of_disjoint h).trans ·) }

theorem OnlyWrites.latchIf (k : OnlyWrites ps s t) (b : Bool) {m : Byte} (h : m &&& 0xE5#8 = 0#8) :
    OnlyWrites ps s (t.setHof (latchIf b t.hof m)) := by
  cases b
  · exact k
  · exact { k with unusedLatches := k.unusedLatches.imp_left ((or_and_of_disjoint h).trans ·) }

/-- Fault entry (60_exceptions.md R303) writes the record only where it sets `halted`. -/
theorem OnlyWrites.takeFault (ps : List StatePart) (f : FaultRecord) (hh : s.hof.halted = false) :
    OnlyWrites ps s (takeFault s f) :=
  { OnlyWrites.refl ps s with faultRecord := .inl fun h => by simp [hh] at h }

theorem onStimulus_onlyWrites {frozen : State} {h : Except FaultRecord State} (hfrozen : OnlyWrites ps s frozen)
    (hok : ∀ t, h = .ok t → OnlyWrites ps s t) : OnlyWrites ps s (onStimulus s frozen h) := by
  obtain ⟨-, e⟩ | ⟨-, t, ht, e⟩ | ⟨hh, f, -, e⟩ := onStimulus_cases s frozen h <;> rw [e]
  · exact hfrozen
  · exact hok t ht
  · exact .takeFault ps f hh

theorem onCommand_onlyWrites {h : Except FaultRecord State} (hresp : .resp ∈ ps)
    (hok : ∀ t, h = .ok t → OnlyWrites ps s t) : OnlyWrites ps s (onCommand s h) := by
  obtain ⟨-, e⟩ | ⟨-, t, ht, e⟩ | ⟨hh, f, -, e⟩ := onCommand_cases s h <;> rw [e]
  · exact (OnlyWrites.refl ps s).respond _ hresp
  · exact hok t ht
  · exact (OnlyWrites.takeFault ps f hh).respond _ hresp

/-- A command whose handler cannot fault. -/
theorem onCommand_ok_onlyWrites (hresp : .resp ∈ ps) (k : OnlyWrites ps s t) :
    OnlyWrites ps s (onCommand s (.ok t)) :=
  onCommand_onlyWrites hresp fun _ ht => Except.ok.inj ht ▸ k

/-! ## The handlers -/

theorem irqClear_onlyWrites (mask : Byte) (h : .rx ∈ ps) : OnlyWrites ps s (irqClear mask s) := by
  have hm : mask &&& latAll &&& 0xE5#8 = 0#8 := by
    rw [BitVec.and_assoc, show latAll &&& 0xE5#8 = 0#8 by decide, BitVec.and_zero]
  unfold irqClear
  split
  · exact ((OnlyWrites.refl ps s).unlatch hm).setRx _ h
  · exact (OnlyWrites.refl ps s).unlatch hm

theorem i2cStart_onlyWrites (cur stop : Addr) (byte : Byte) (c : McsCommand) (hi : .i2c ∈ ps) (hresp : .resp ∈ ps) :
    OnlyWrites ps s (i2cStart cur stop byte c s) :=
  (((OnlyWrites.refl ps s).setI2c _ hi).unlatch (m := latI2cDone) (by decide)).respond _ hresp

theorem uartTxHandler_onlyWrites {p : Addr} {n : BitVec 16} (h : uartTxHandler p n s = .ok t) :
    OnlyWrites [.tx, .resp] s t := by
  obtain ⟨-, -, -, b, -, rfl⟩ := uartTxHandler_ok h
  exact (((OnlyWrites.refl _ s).setTx _ (by simp)).unlatch (m := latTxDone) (by decide)).respond _ (by simp)

theorem tickHandler_onlyWrites (h : tickHandler s = .ok t) : OnlyWrites [.deb] s t := by
  obtain ⟨-, rfl⟩ | ⟨-, d, -, rfl⟩ := tickHandler_ok h
  · exact .refl _ _
  · exact (OnlyWrites.refl _ s).setDeb d (by simp)

theorem baudHandler_onlyWrites (h : baudHandler s = .ok t) : OnlyWrites [.tx, .rx] s t := by
  obtain ⟨x, done, -, rfl⟩ := baudHandler_ok h
  have halves : OnlyWrites [.tx, .rx] s ((s.setTx x).setRx (rxStep s.cfg s.inp.rxd s.rx).1) :=
    ((OnlyWrites.refl _ s).setTx x (by simp)).setRx _ (by simp)
  have txDone := halves.latchIf done (m := latTxDone) (by decide)
  exact txDone.latchIf (rxStep s.cfg s.inp.rxd s.rx).2 (m := latRxErr) (by decide)

theorem i2cqHandler_onlyWrites (h : i2cqHandler s = .ok t) : OnlyWrites [.i2c] s t := by
  obtain ⟨m, done, -, rfl⟩ := i2cqHandler_ok h
  exact ((OnlyWrites.refl _ s).setI2c m (by simp)).latchIf done (m := latI2cDone) (by decide)

end

/-! ## The instructions -/

theorem resp_mem_writtenParts (c : Command) : .resp ∈ writtenParts c.toInstr := by
  cases c <;> simp [Command.toInstr, writtenParts]

theorem writtenParts_toInstr_subset (c : Command) (w : CmdWord) :
    writtenParts c.toInstr ⊆ writtenParts (.evtCmd w) := by
  cases c <;> simp [Command.toInstr, writtenParts]

theorem runCommand_onlyWrites {c : Command} {s t : State} (h : runCommand c s = .next t) :
    OnlyWrites (writtenParts c.toInstr) s t := by
  have hresp := resp_mem_writtenParts c
  have k := OnlyWrites.refl (writtenParts c.toInstr) s
  cases c <;> obtain rfl := Host.Outcome.next.inj h
  case nop => exact onCommand_ok_onlyWrites hresp (k.respond _ hresp)
  case status => exact k.respond _ hresp
  case xstatus => exact k.respond _ hresp
  case debPeek pin => exact onCommand_ok_onlyWrites hresp (k.respond _ hresp)
  case irqEn mask =>
    refine onCommand_onlyWrites hresp fun t ht => ?_
    obtain ⟨-, rfl⟩ := irqEnHandler_ok ht
    exact (k.setIrqEn mask (.head _)).respond _ hresp
  case irqClr mask =>
    refine onCommand_onlyWrites hresp fun t ht => ?_
    obtain ⟨-, rfl⟩ := irqClrHandler_ok ht
    exact (irqClear_onlyWrites mask (.head _)).respond _ hresp
  case faultInfo half => exact k.respond _ hresp
  case btnPop => exact onCommand_ok_onlyWrites hresp ((k.setDeb _ (.head _)).respond _ hresp)
  case uartTx p n => exact onCommand_onlyWrites hresp fun t ht => uartTxHandler_onlyWrites ht
  case uartRxPop => exact onCommand_ok_onlyWrites hresp ((k.setRx _ (.head _)).respond _ hresp)
  case i2cSetsa msa =>
    refine onCommand_onlyWrites hresp fun t ht => ?_
    obtain ⟨-, -, rfl⟩ := i2cSetsaHandler_ok ht
    exact (k.setI2c _ (.head _)).respond _ hresp
  case i2cWrite ctrl p n =>
    refine onCommand_onlyWrites hresp fun t ht => ?_
    obtain ⟨-, -, rfl⟩ := i2cWriteHandler_ok ht
    exact i2cStart_onlyWrites _ _ _ _ (.head _) hresp
  case i2cWriteOne byte =>
    refine onCommand_onlyWrites hresp fun t ht => ?_
    obtain ⟨-, rfl⟩ := i2cWriteOneHandler_ok ht
    exact i2cStart_onlyWrites _ _ _ _ (.head _) hresp

theorem exec_evtCmd_onlyWrites {w : CmdWord} {s t : State} (h : exec (.evtCmd w) s = .next t) :
    OnlyWrites (writtenParts (.evtCmd w)) s t := by
  obtain ⟨f, e⟩ | ⟨c, -, e⟩ := exec_evtCmd_cases w s <;> rw [e] at h
  · obtain rfl := Host.Outcome.next.inj h
    exact onCommand_onlyWrites (by simp [writtenParts]) fun _ ht => by cases ht
  · exact (runCommand_onlyWrites h).mono (writtenParts_toInstr_subset c w)

/-- RESET keeps the input wires, the response word and what no instruction writes (70_reset_and_hazards.md R340). -/
theorem resetBlock_onlyWrites (s : State) : OnlyWrites (writtenParts .evtReset) s (resetBlock s) := by
  constructor <;> simp [writtenParts]

/-- An instruction writes no part but those listed for it. -/
theorem exec_onlyWrites {i : Instr} {s t : State} (h : exec i s = .next t) : OnlyWrites (writtenParts i) s t := by
  have k := OnlyWrites.refl (writtenParts i) s
  obtain ⟨c, rfl⟩ | ⟨v, rfl⟩ | rfl | rfl | ⟨b, rfl⟩ | rfl | ⟨c, d, rfl⟩ | rfl | ⟨w, rfl⟩ := command_or_stimulus i
  · exact runCommand_onlyWrites (exec_toInstr c s ▸ h)
  · obtain rfl := Host.Outcome.next.inj h
    have wire := k.setInp { s.inp with pins := v } (.head _)
    exact onStimulus_onlyWrites wire fun t ht => Except.ok.inj ht ▸ wire.setDeb _ (by simp [writtenParts])
  · obtain rfl := Host.Outcome.next.inj h
    exact onStimulus_onlyWrites k fun t ht => tickHandler_onlyWrites ht
  · obtain rfl := Host.Outcome.next.inj h
    exact onStimulus_onlyWrites k fun t ht => baudHandler_onlyWrites ht
  · obtain rfl := Host.Outcome.next.inj h
    have wire := k.setInp { s.inp with rxd := b } (.head _)
    exact onStimulus_onlyWrites wire fun t ht => Except.ok.inj ht ▸ wire
  · obtain rfl := Host.Outcome.next.inj h
    exact onStimulus_onlyWrites k fun t ht => i2cqHandler_onlyWrites ht
  · obtain rfl := Host.Outcome.next.inj h
    have wire := k.setInp { s.inp with sclExt := c, sdaExt := d } (.head _)
    exact onStimulus_onlyWrites wire fun t ht => Except.ok.inj ht ▸ wire
  · obtain rfl := Host.Outcome.next.inj h
    exact resetBlock_onlyWrites s
  · exact exec_evtCmd_onlyWrites h

/-! ## Who writes a part -/

theorem writers_of_inp {i : Instr} (h : .inp ∈ writtenParts i) :
    (∃ v, i = .evtPins v) ∨ (∃ b, i = .evtRxd b) ∨ ∃ c d, i = .evtBusext c d := by
  cases i <;> simp [writtenParts] at h ⊢

theorem writers_of_deb {i : Instr} (h : .deb ∈ writtenParts i) :
    (∃ v, i = .evtPins v) ∨ i = .evtTick ∨ i = .btnPop ∨ i = .evtReset ∨ ∃ w, i = .evtCmd w := by
  cases i <;> simp [writtenParts] at h ⊢

theorem writers_of_tx {i : Instr} (h : .tx ∈ writtenParts i) :
    i = .evtBaud16 ∨ (∃ p n, i = .uartTx p n) ∨ i = .evtReset ∨ ∃ w, i = .evtCmd w := by
  cases i <;> simp [writtenParts] at h ⊢

theorem writers_of_rx {i : Instr} (h : .rx ∈ writtenParts i) :
    i = .evtBaud16 ∨ i = .uartRxPop ∨ (∃ m, i = .irqClr m) ∨ i = .evtReset ∨ ∃ w, i = .evtCmd w := by
  cases i <;> simp [writtenParts] at h ⊢

theorem writers_of_i2c {i : Instr} (h : .i2c ∈ writtenParts i) :
    i = .evtI2cq ∨ (∃ m, i = .i2cSetsa m) ∨ (∃ c p n, i = .i2cWrite c p n) ∨ (∃ b, i = .i2cWriteOne b) ∨
      i = .evtReset ∨ ∃ w, i = .evtCmd w := by
  cases i <;> simp [writtenParts] at h ⊢

theorem writers_of_resp {i : Instr} (h : .resp ∈ writtenParts i) :
    i.command?.isSome = true ∨ ∃ w, i = .evtCmd w := by
  cases i <;> simp [writtenParts, Instr.command?] at h ⊢

theorem writers_of_irqEn {i : Instr} (h : .irqEn ∈ writtenParts i) :
    (∃ m, i = .irqEn m) ∨ i = .evtReset ∨ ∃ w, i = .evtCmd w := by
  cases i <;> simp [writtenParts] at h ⊢

theorem writer_of_faultRecord {i : Instr} (h : .faultRecord ∈ writtenParts i) : i = .evtReset := by
  cases i <;> simp [writtenParts] at h ⊢

theorem writer_of_unusedLatches {i : Instr} (h : .unusedLatches ∈ writtenParts i) : i = .evtReset := by
  cases i <;> simp [writtenParts] at h ⊢

/-- Settles O10: an instruction writes only its own parts, and each part has only the writers named. -/
theorem instructionsTouchOnlyTheirUnit : Obligations.InstructionsTouchOnlyTheirUnit := by
  intro i s t h
  have k := exec_onlyWrites h
  exact ⟨k.cfg, k.mem, k.pending, k.position, k.inp.imp_right writers_of_inp, k.deb.imp_right writers_of_deb,
    k.tx.imp_right writers_of_tx, k.rx.imp_right writers_of_rx, k.i2c.imp_right writers_of_i2c,
    k.resp.imp_right writers_of_resp, k.irqEn.imp_right writers_of_irqEn,
    fun hh hr => k.faultRecord.elim (· hh) fun hf => absurd (writer_of_faultRecord hf) hr,
    k.unusedLatches.imp_right writer_of_unusedLatches⟩

end Sys2Proof.Machine
end

section
/-! The invariant of each unit (10_state.md R23, R26, R44 to R46, R48; 60_exceptions.md R301): reset has it, and every
operation on the unit keeps it. -/

namespace Sys2Proof.Machine

/-! ## Legal configurations -/

/-- The ranges of a legal configuration that the invariants rest on (00_scope.md R6, R8). -/
theorem Cfg.wf_ranges {c : Cfg} (h : c.wf = true) :
    c.window ≤ 255 ∧ (1 ≤ c.btnqCap ∧ c.btnqCap ≤ 15) ∧ 1 ≤ c.rxqCap ∧ c.rxqCap ≤ 15 := by
  simp [Cfg.wf] at h
  omega

/-! ## Queues -/

theorem queueInv_reset {cap : Nat} (h : 1 ≤ cap) : QueueInv cap Queue.reset :=
  ⟨Nat.zero_le _, h⟩

theorem QueueInv.enq {cap : Nat} {q : Queue} (k : QueueInv cap q) (hcap : cap ≤ 15) (hc : q.count.toNat ≠ cap)
    (v : Byte) : QueueInv cap (enq cap q v) := by
  have hlt : q.count.toNat < cap := lt_of_le_of_ne k.count_le hc
  obtain ⟨hcount, hhead, -⟩ := enq_spec v hlt hcap k.head_lt
  exact ⟨by omega, by rw [hhead]; exact k.head_lt⟩

theorem QueueInv.popRest {cap : Nat} {q : Queue} (k : QueueInv cap q) (hcap : cap ≤ 15) :
    QueueInv cap (popRest cap q) := by
  unfold Machine.popRest
  split
  next => exact k
  next hc =>
    obtain ⟨hcount, hhead, -⟩ := deq_spec hc hcap k.head_lt
    have := k.count_le
    exact ⟨by omega, hhead⟩

/-! ## Hand-off -/

theorem hofInv_reset : HofInv Hof.reset := by
  constructor <;> decide

/-- Only codes 1 to 9 are ever written (60_exceptions.md R301). -/
theorem FaultCode.bits_range (f : FaultCode) : 1 ≤ f.bits.toNat ∧ f.bits.toNat ≤ 9 := by
  cases f <;> decide

theorem HofInv.fault {h : Hof} (k : HofInv h) (f : FaultRecord) :
    HofInv { h with halted := true, faultCode := f.code.bits, faultInfo := f.info } :=
  { k with
    clear := fun hh => by cases hh
    coded := fun _ => f.code.bits_range }

theorem HofInv.irqEn {h : Hof} (k : HofInv h) {mask : Byte} (hm : irqMaskOk mask = true) :
    HofInv { h with irqEn := mask } :=
  { k with en_unused := by simpa [irqMaskOk] using hm }

theorem HofInv.unlatch {h : Hof} (k : HofInv h) (m : Byte) : HofInv (unlatch h m) :=
  { k with
    lat_unused := by
      show h.irqLat &&& ~~~m &&& ~~~0x1A#8 = 0#8
      rw [BitVec.and_assoc, BitVec.and_comm (~~~m), ← BitVec.and_assoc, k.lat_unused, BitVec.zero_and] }

/-- Latching keeps the invariant if the mask holds latched causes only (40_handoff.md R114). -/
theorem HofInv.latchIf {h : Hof} (k : HofInv h) (b : Bool) {m : Byte} (hm : m &&& ~~~0x1A#8 = 0#8) :
    HofInv (latchIf b h m) := by
  cases b
  · exact k
  · exact { k with lat_unused := (or_and_of_disjoint hm).trans k.lat_unused }

/-! ## Transmit -/

theorem txInv_reset : TxInv UartTx.reset := by
  constructor <;> decide

/-- The end of a buffer that does not wrap (20_memory.md R69). -/
theorem toNat_bufEnd {p : Addr} {n : BitVec 16} (h : bufWraps p n = false) :
    (bufEnd p n).toNat = p.toNat + n.toNat := by
  simp only [bufWraps, decide_eq_false_iff_not] at h
  simp only [bufEnd, BitVec.toNat_add, BitVec.toNat_setWidth]
  omega

/-- A cursor before its end moves on without wrapping (R46, R47). -/
theorem toNat_add_one_of_lt {a b : Addr} (h : a.toNat < b.toNat) : (a + 1#32).toNat = a.toNat + 1 := by
  bv_omega

/-- An accepted UART_TX (42_uart.md R181). -/
theorem TxInv.txStart {t : UartTx} (k : TxInv t) {p : Addr} {n : BitVec 16} (b : Byte) (hn : n ≠ 0#16)
    (hw : bufWraps p n = false) : TxInv (txStart p n b t) :=
  { k with
    busy_full := rfl
    cursor := fun _ => by
      show p.toNat < (bufEnd p n).toNat
      rw [toNat_bufEnd hw]
      bv_omega }

theorem TxInv.txShift {t : UartTx} (k : TxInv t) : TxInv (txShift t) := by
  obtain ⟨-, e⟩ | ⟨-, -, e⟩ | ⟨-, -, -, e⟩ | ⟨ha, -, h9, e⟩ := txShift_cases t <;> rw [e]
  · exact k
  · exact { k with }
  · exact { k with
      bit_le := Nat.zero_le _
      idle_line := fun _ => rfl
      line := fun h => by cases h }
  · exact { k with
      bit_le := by
        have := k.bit_le
        show (t.txBit + 1#4).toNat ≤ 9
        bv_omega
      idle_line := fun h => by simp [ha] at h
      line := fun _ => rfl }

/-- The load and TXE (R186, R189) end the transfer or fetch its next byte. -/
theorem TxInv.txe_txLoad {m : Memory} {t x : UartTx} {done : Bool} (k : TxInv t) (hf : t.thrFull = true)
    (h : txe m (txLoad t) = .ok (x, done)) : TxInv x := by
  have hlt : t.txCur.toNat < t.txEnd.toNat := k.cursor (k.busy_full.trans hf)
  have hnext := toNat_add_one_of_lt hlt
  obtain ⟨-, e⟩ | ⟨hne, b, -, e⟩ | ⟨-, -, e⟩ := txe_cases m (txLoad t) <;> rw [e] at h <;> cases h
  · exact {
      busy_full := rfl
      cursor := fun h => by cases h
      bit_le := Nat.zero_le _
      idle_line := fun h => by cases h
      line := fun _ => rfl }
  · have hne : (t.txCur + 1#32).toNat ≠ t.txEnd.toNat := fun h => hne (BitVec.eq_of_toNat_eq h)
    exact {
      busy_full := k.busy_full.trans hf
      cursor := fun _ => by
        show (t.txCur + 1#32).toNat < t.txEnd.toNat
        omega
      bit_le := Nat.zero_le _
      idle_line := fun h => by cases h
      line := fun _ => rfl }

theorem TxInv.txStep {m : Memory} {t x : UartTx} {done : Bool} (k : TxInv t) (h : txStep m t = .ok (x, done)) :
    TxInv x := by
  obtain ⟨-, hf, e⟩ | ⟨-, e⟩ := txStep_cases m t <;> rw [e] at h
  · exact k.txShift.txe_txLoad hf h
  · cases h
    exact k.txShift

/-! ## Receive -/

theorem rxInv_reset {c : Cfg} (hc : 1 ≤ c.rxqCap) (rxd : Bool) : RxInv c (UartRx.reset rxd) :=
  ⟨fun h => (nomatch h), queueInv_reset hc⟩

theorem RxInv.rxIdle {c : Cfg} {r : UartRx} (k : RxInv c r) (rxd : Bool) : RxInv c (rxIdle rxd r) := by
  unfold Machine.rxIdle
  split
  · exact { k with start_cnt := fun _ => Nat.zero_le _ }
  · exact k

theorem RxInv.rxStart {c : Cfg} {r : UartRx} (k : RxInv c r) (hs : r.rxSt = .start) (rxd : Bool) :
    RxInv c (rxStart rxd r) := by
  unfold Machine.rxStart
  split
  next =>
    split
    · exact { k with start_cnt := fun h => (nomatch h) }
    · exact { k with start_cnt := fun h => (nomatch h) }
  next h7 =>
    have := k.start_cnt hs
    exact { k with
      start_cnt := fun _ => by
        show (r.rxCnt + 1#4).toNat ≤ 7
        bv_omega }

/-- A state that is not START owes nothing but its queue. -/
theorem rxInv_of_not_start {c : Cfg} {r : UartRx} (hs : r.rxSt ≠ .start) (q : QueueInv c.rxqCap r.rxq) : RxInv c r :=
  ⟨fun h => absurd h hs, q⟩

theorem RxInv.rxData {c : Cfg} {r : UartRx} (k : RxInv c r) (hs : r.rxSt = .data) (rxd : Bool) :
    RxInv c (rxData rxd r) := by
  have hne : r.rxSt ≠ .start := by simp [hs]
  unfold Machine.rxData
  split
  · split
    · exact rxInv_of_not_start (by simp) k.queue
    · exact rxInv_of_not_start hne k.queue
  · exact rxInv_of_not_start hne k.queue

theorem RxInv.rxStop {c : Cfg} {r : UartRx} (k : RxInv c r) (hc : c.rxqCap ≤ 15) (hs : r.rxSt = .stop) (rxd : Bool) :
    RxInv c (rxStop c rxd r).1 := by
  unfold Machine.rxStop
  split
  next =>
    split
    next => exact rxInv_of_not_start (by simp) k.queue
    next hq =>
      have hq : r.rxq.count.toNat ≠ c.rxqCap := by simpa [queueFull] using hq
      exact rxInv_of_not_start (by simp) (k.queue.enq hc hq _)
  next => exact rxInv_of_not_start (by simp [hs]) k.queue

theorem RxInv.rxStep {c : Cfg} {r : UartRx} (k : RxInv c r) (hc : c.rxqCap ≤ 15) (rxd : Bool) :
    RxInv c (rxStep c rxd r).1 := by
  have hm : RxInv c (rxMachine c rxd r).1 := by
    unfold rxMachine
    cases hs : r.rxSt with
    | idle => exact k.rxIdle rxd
    | start => exact k.rxStart hs rxd
    | data => exact k.rxData hs rxd
    | stop => exact k.rxStop hc hs rxd
  exact { hm with }

theorem RxInv.popRest {c : Cfg} {r : UartRx} (k : RxInv c r) (hc : c.rxqCap ≤ 15) :
    RxInv c { r with rxq := popRest c.rxqCap r.rxq } :=
  { k with queue := k.queue.popRest hc }

end Sys2Proof.Machine
end

section
/-! The debounce invariant (10_state.md R26, R45), lane by lane. -/

namespace Sys2Proof.Machine

/-- What the debounce invariant says of one lane with its button mask bit, edge latch bit, countdown and vote: `DebInv`
is this of every lane, and two facts that are not lane by lane (`debInv_iff`). -/
structure LaneInv (window : Nat) (isButton pend : Bool) (rem vote : Byte) : Prop where
  rem_le : rem.toNat ≤ window
  vote_le : rem ≠ 0#8 → vote.toNat + rem.toNat ≤ window
  idle_vote : rem = 0#8 → vote = 0#8
  button : isButton = false → rem = 0#8
  pend_button : pend = true → isButton = true
  pend_idle : pend = true → rem = 0#8

/-- Lane `i` of the debounce state. -/
abbrev Deb.LaneInv (c : Cfg) (d : Deb) (i : Fin 8) : Prop :=
  Machine.LaneInv c.window c.btnMask[i.val] d.edgePend[i.val] d.rem[i.val] d.vote[i.val]

theorem pend_button_iff {c : Cfg} {d : Deb} :
    d.edgePend &&& ~~~c.btnMask = 0#8 ↔ ∀ i : Fin 8, d.edgePend[i.val] = true → c.btnMask[i.val] = true := by
  simp [byte_eq_zero_iff]

theorem pend_idle_iff {d : Deb} :
    d.edgePend &&& debSet d = 0#8 ↔ ∀ i : Fin 8, d.edgePend[i.val] = true → d.rem[i.val] = 0#8 := by
  simp [byte_eq_zero_iff]

theorem debInv_iff {c : Cfg} {d : Deb} :
    DebInv c d ↔ (∀ i, d.LaneInv c i) ∧ (parked d = true → d.edgePend = 0#8) ∧ QueueInv c.btnqCap d.btnq := by
  constructor
  · intro k
    exact ⟨fun i => ⟨k.rem_le i, k.vote_le i, k.idle_vote i, k.button i, pend_button_iff.mp k.pend_button i,
      pend_idle_iff.mp k.pend_idle i⟩, k.parked_clear, k.queue⟩
  · rintro ⟨lane, clear, queue⟩
    exact ⟨fun i => (lane i).rem_le, fun i => (lane i).vote_le, fun i => (lane i).idle_vote,
      fun i => (lane i).button, pend_button_iff.mpr fun i => (lane i).pend_button,
      pend_idle_iff.mpr fun i => (lane i).pend_idle, clear, queue⟩

/-! ## One lane -/

/-- A lane captures an edge only if it is a button's and not debouncing (41_debounce.md R141). -/
theorem LaneInv.capture {w : Nat} {b p : Bool} {r v : Byte} (k : LaneInv w b p r v) (e : Bool) :
    LaneInv w b (p || (e && b && !(r != 0#8))) r v :=
  { k with
    pend_button := fun h => by
      cases p
      · simp at h
        exact h.1.2
      · exact k.pend_button rfl
    pend_idle := fun h => by
      cases p
      · simp at h
        exact h.2
      · exact k.pend_idle rfl }

/-- A touched lane starts a window, and no latch is left (R142; R143, step 5). -/
theorem LaneInv.fold {w : Nat} {b p : Bool} {r v : Byte} (k : LaneInv w b p r v) (hw : w ≤ 255) :
    LaneInv w b false (if p then BitVec.ofNat 8 w else r) (if p then 0#8 else v) := by
  cases p
  · exact k
  · have hr : (BitVec.ofNat 8 w).toNat = w := by
      rw [BitVec.toNat_ofNat]
      omega
    exact {
      rem_le := hr.le
      vote_le := fun _ => by simp [hr]
      idle_vote := fun _ => rfl
      button := fun h => by simp [k.pend_button rfl] at h
      pend_button := fun h => by cases h
      pend_idle := fun h => by cases h }

/-- A sample: a debouncing lane counts down and votes, and a lane that gets to 0 forgets its vote (R143, steps 1 to 3). -/
theorem LaneInv.tick {w : Nat} {b p : Bool} {r v : Byte} (k : LaneInv w b p r v) (pin : Bool) :
    LaneInv w b p (if r != 0#8 then r - 1#8 else r)
      (if r != 0#8 && (if r != 0#8 then r - 1#8 else r) == 0#8 then 0#8
        else if r != 0#8 && pin then v + 1#8 else v) := by
  by_cases hr : r = 0#8
  · simpa [hr] using hr ▸ k
  · have hle := k.vote_le hr
    have hr1 : (r - 1#8).toNat + 1 = r.toNat := by bv_omega
    have hb : b = true := by
      by_contra hb
      exact hr (k.button (by simpa using hb))
    have hp : p = false := by
      by_contra hp
      exact hr (k.pend_idle (by simpa using hp))
    have hv : (if pin then v + 1#8 else v).toNat ≤ v.toNat + 1 := by
      split <;> bv_omega
    have hne : (r != 0#8) = true := by simpa using hr
    simp only [hne, if_true, Bool.true_and, beq_iff_eq, hp, hb]
    exact {
      rem_le := by omega
      vote_le := fun h => by
        rw [if_neg h]
        omega
      idle_vote := fun h => if_pos h
      button := fun h => by cases h
      pend_button := fun h => by cases h
      pend_idle := fun h => by cases h }

/-! ## The whole engine -/

theorem debInv_reset {c : Cfg} (hc : 1 ≤ c.btnqCap) : DebInv c Deb.reset := by
  refine debInv_iff.mpr ⟨fun i => ?_, fun _ => rfl, queueInv_reset hc⟩
  constructor <;> simp [Deb.reset]

theorem capture_laneInv {c : Cfg} {d : Deb} (k : ∀ i, d.LaneInv c i) (old v : Byte) (i : Fin 8) :
    (capture c old v d).LaneInv c i := by
  have := (k i).capture (pinEdges c old v)[i.val]
  simpa [Deb.LaneInv, capture] using this

/-- After a fold no latch is set, so a parked engine has none either. -/
theorem foldTouched_debInv {c : Cfg} {d : Deb} (hw : c.window ≤ 255) (lane : ∀ i, d.LaneInv c i)
    (queue : QueueInv c.btnqCap d.btnq) : DebInv c (foldTouched c d) :=
  debInv_iff.mpr ⟨fun i => by simpa [Deb.LaneInv] using (lane i).fold hw, fun _ => rfl, queue⟩

theorem tickLanes_laneInv {c : Cfg} {d : Deb} (k : ∀ i, d.LaneInv c i) (pins : Byte) (i : Fin 8) :
    (tickLanes pins d).LaneInv c i := by
  have := (k i).tick pins[i.val]
  simpa [Deb.LaneInv, tickRem, tickVote, tickFin] using this

theorem DebInv.debPins {c : Cfg} {d : Deb} (k : DebInv c d) (hw : c.window ≤ 255) (old v : Byte) :
    DebInv c (debPins c old v d) := by
  obtain ⟨lane, -, queue⟩ := debInv_iff.mp k
  have captured := capture_laneInv lane old v
  unfold Machine.debPins
  split
  next => exact foldTouched_debInv hw captured queue
  next hwake => exact debInv_iff.mpr ⟨captured, fun hp => by simpa [show parked d = true from hp] using hwake, queue⟩

theorem DebInv.debTick {c : Cfg} {pins : Byte} {d x : Deb} (k : DebInv c d) (hw : c.window ≤ 255)
    (hcap : c.btnqCap ≤ 15) (h : debTick c pins d = .ok x) : DebInv c x := by
  obtain ⟨lane, -, queue⟩ := debInv_iff.mp k
  have ticked := tickLanes_laneInv lane pins
  obtain ⟨-, e⟩ | ⟨-, hq, e⟩ | ⟨-, -, e⟩ := debTick_cases c pins d <;> rw [e] at h <;> cases h
  · exact foldTouched_debInv hw ticked queue
  · exact foldTouched_debInv hw ticked (queue.enq hcap hq _)

theorem DebInv.popRest {c : Cfg} {d : Deb} (k : DebInv c d) (hcap : c.btnqCap ≤ 15) :
    DebInv c { d with btnq := popRest c.btnqCap d.btnq } :=
  { k with queue := k.queue.popRest hcap }

end Sys2Proof.Machine
end

section
/-! What each slot of the I2C bit sequencer can do, said once (43_i2c.md R261 to R266): one lemma per slot. -/

namespace Sys2Proof.Machine

/-- A phase is one of four. -/
theorem phase_cases (p : BitVec 2) : p = 0#2 ∨ p = 1#2 ∨ p = 2#2 ∨ p = 3#2 := by
  revert p
  decide

/-- The START slot (R262). -/
theorem startStep_cases (m : I2cm) :
    (m.ph = 0#2 ∧ startStep m = { m with sdaDrv := false, ph := 1#2 }) ∨
    (m.ph = 1#2 ∧ startStep m = { m with ph := 2#2 }) ∨
    (m.ph = 2#2 ∧ startStep m = { m with ph := 3#2 }) ∨
    (m.ph = 3#2 ∧ startStep m =
      { m with
        sclDrv := false
        sh := m.msa &&& 0xFE#8
        kind := .addr
        bitn := 7#3
        seq := .xmit
        ph := 0#2 }) := by
  obtain h | h | h | h := phase_cases m.ph <;> simp [startStep, h]

/-- The XMIT slot (R263, R264): drive, release the clock, wait while it is stretched, lose the bus or sample, and end the
bit or the byte. -/
theorem xmitStep_cases (mem : Memory) (scl sda : Bool) (m : I2cm) :
    (m.ph = 0#2 ∧ xmitStep mem scl sda m = .ok ({ m with sdaDrv := slotBit m, ph := 1#2 }, false)) ∨
    (m.ph = 1#2 ∧ xmitStep mem scl sda m = .ok ({ m with sclDrv := true, ph := 2#2 }, false)) ∨
    (m.ph = 2#2 ∧ scl = false ∧ xmitStep mem scl sda m = .ok (m, false)) ∨
    (m.ph = 2#2 ∧ scl = true ∧ (slotBit m && !sda) = true ∧
      xmitStep mem scl sda m = mdone mem (arbitrationLost m)) ∨
    (m.ph = 2#2 ∧ scl = true ∧ (slotBit m && !sda) = false ∧
      xmitStep mem scl sda m = .ok ({ m with ph := 3#2 }, false)) ∨
    (m.ph = 3#2 ∧ m.bitn = 0#3 ∧
      xmitStep mem scl sda m = .ok ({ m with sclDrv := false, ph := 0#2, seq := .ack }, false)) ∨
    (m.ph = 3#2 ∧ m.bitn ≠ 0#3 ∧
      xmitStep mem scl sda m = .ok ({ m with sclDrv := false, ph := 0#2, bitn := m.bitn - 1#3 }, false)) := by
  obtain h | h | h | h := phase_cases m.ph
  · simp [xmitStep, h]
  · simp [xmitStep, h]
  · cases scl
    · simp [xmitStep, h]
    · cases hl : slotBit m && !sda <;> simp [xmitStep, h, hl]
  · by_cases hb : m.bitn = 0#3 <;> simp [xmitStep, h, hb]

/-- The end of the ACK slot (R265, phase 3): STOP on an error or after the last byte, the first payload byte after the
address, or MDONE. -/
theorem ackEnd_cases (mem : Memory) (m : I2cm) :
    ((m.err = true ∨ m.pendStop = true) ∧ ackEnd mem m = .ok ({ m with seq := .stop }, false)) ∨
    ackEnd mem m = .ok ({ m with sh := m.mdr, kind := .data, bitn := 7#3, seq := .xmit }, false) ∨
    (m.err = false ∧ m.pendStop = false ∧ ackEnd mem m = mdone mem { m with seq := .hold }) := by
  unfold ackEnd
  cases he : m.err
  · by_cases hk : m.kind = .addr
    · simp [hk]
    · cases hp : m.pendStop <;> simp [hk]
  · simp

/-- The ACK slot (R265). -/
theorem ackStep_cases (mem : Memory) (scl sda : Bool) (m : I2cm) :
    (m.ph = 0#2 ∧ ackStep mem scl sda m = .ok ({ m with sdaDrv := true, ph := 1#2 }, false)) ∨
    (m.ph = 1#2 ∧ ackStep mem scl sda m = .ok ({ m with sclDrv := true, ph := 2#2 }, false)) ∨
    (m.ph = 2#2 ∧ scl = false ∧ ackStep mem scl sda m = .ok (m, false)) ∨
    (m.ph = 2#2 ∧ scl = true ∧ sda = true ∧ ackStep mem scl sda m = .ok ({ nack m with ph := 3#2 }, false)) ∨
    (m.ph = 2#2 ∧ scl = true ∧ sda = false ∧ ackStep mem scl sda m = .ok ({ m with ph := 3#2 }, false)) ∨
    (m.ph = 3#2 ∧ ackStep mem scl sda m = ackEnd mem { m with sclDrv := false, ph := 0#2 }) := by
  obtain h | h | h | h := phase_cases m.ph
  · simp [ackStep, h]
  · simp [ackStep, h]
  · cases scl <;> cases sda <;> simp [ackStep, h]
  · simp [ackStep, h]

/-- A NACK (R265, phase 2) raises `err` and one of the two acknowledge flags, by the kind of the byte. -/
theorem nack_cases (m : I2cm) :
    nack m = { m with err := true, adrack := true } ∨ nack m = { m with err := true, datack := true } := by
  unfold nack
  cases m.kind <;> simp

/-- The STOP slot (R266). -/
theorem stopStep_cases (mem : Memory) (scl : Bool) (m : I2cm) :
    (m.ph = 0#2 ∧ stopStep mem scl m = .ok ({ m with sdaDrv := false, ph := 1#2 }, false)) ∨
    (m.ph = 1#2 ∧ stopStep mem scl m = .ok ({ m with sclDrv := true, ph := 2#2 }, false)) ∨
    (m.ph = 2#2 ∧ scl = false ∧ stopStep mem scl m = .ok (m, false)) ∨
    (m.ph = 2#2 ∧ scl = true ∧ stopStep mem scl m = .ok ({ m with ph := 3#2 }, false)) ∨
    (m.ph = 3#2 ∧ stopStep mem scl m = mdone mem { m with sdaDrv := true, seq := .idle, ph := 0#2 }) := by
  obtain h | h | h | h := phase_cases m.ph
  · simp [stopStep, h]
  · simp [stopStep, h]
  · cases scl <;> simp [stopStep, h]
  · simp [stopStep, h]

end Sys2Proof.Machine
end

section
/-! The invariant of the I2C master (10_state.md R36, R40, R47, R48; 43_i2c.md R268). -/

namespace Sys2Proof.Machine

/-- The part of `I2cInv` that speaks of the transfer and not of the slot. -/
structure TransferInv (m : I2cm) : Prop where
  write_only : m.msa[0] = false
  cursor : m.i2cBusy = true → m.i2cCur.toNat ≤ m.i2cEnd.toNat
  last : m.i2cBusy = true → (m.pendStop = true ↔ m.i2cCur = m.i2cEnd)
  err_cause : m.err = (m.adrack || m.datack || m.arblst)

/-- The part of `I2cInv` that speaks of the slot: the busy flag and the lines, by the sequencer's state. -/
inductive SlotInv (m : I2cm) : Prop where
  | idle (seq : m.seq = .idle) (busy : m.i2cBusy = false) (scl : m.sclDrv = true) (sda : m.sdaDrv = true)
  | waitbus (seq : m.seq = .waitbus) (busy : m.i2cBusy = true) (scl : m.sclDrv = true) (sda : m.sdaDrv = true)
  | start (seq : m.seq = .start) (busy : m.i2cBusy = true) (scl : m.sclDrv = true)
    (sda : m.sdaDrv = true ↔ m.ph = 0#2)
  | xmit (seq : m.seq = .xmit) (busy : m.i2cBusy = true) (scl : m.sclDrv = true ↔ 2 ≤ m.ph.toNat)
    (sda : 1 ≤ m.ph.toNat → m.sdaDrv = slotBit m)
  | ack (seq : m.seq = .ack) (busy : m.i2cBusy = true) (scl : m.sclDrv = true ↔ 2 ≤ m.ph.toNat)
    (sda : 1 ≤ m.ph.toNat → m.sdaDrv = true)
  | stop (seq : m.seq = .stop) (busy : m.i2cBusy = true) (why : m.err = true ∨ m.pendStop = true)
    (scl : m.sclDrv = true ↔ 2 ≤ m.ph.toNat) (sda : 1 ≤ m.ph.toNat → m.sdaDrv = false)

theorem I2cInv.transfer {m : I2cm} (k : I2cInv m) : TransferInv m :=
  ⟨k.write_only, k.cursor, k.last, k.err_cause⟩

theorem I2cInv.busy {m : I2cm} (k : I2cInv m) (h : m.seq ≠ .idle) : m.i2cBusy = true := by
  by_contra hb
  exact h (k.busy_seq.mp (by simpa using hb))

/-- The two parts are the whole invariant: what it says of a sequencer state is read off that state's case. -/
theorem TransferInv.withSlot {m : I2cm} (d : TransferInv m) (k : SlotInv m) : I2cInv m :=
  { d with
    busy_seq := by cases k <;> simp [*]
    no_hold := by cases k <;> simp [*]
    stop_why := by cases k <;> simp [*]
    released := by cases k <;> simp [*]
    start_lines := by cases k <;> simp [*]
    slot_scl := by cases k <;> simp [*]
    xmit_sda := by cases k <;> simp_all
    ack_sda := by cases k <;> simp_all
    stop_sda := by cases k <;> simp_all }

theorem i2cInv_reset : I2cInv I2cm.reset := by
  constructor <;> decide

/-! ## MDONE and the commands -/

section
variable {mem : Memory} {scl sda done : Bool} {m x : I2cm}

/-- MDONE on a transfer that is over (43_i2c.md R250), with the bus released. -/
theorem TransferInv.mdone_over (d : TransferInv m) (hend : m.err = true ∨ m.i2cCur = m.i2cEnd) (hs : m.seq = .idle)
    (hscl : m.sclDrv = true) (hsda : m.sdaDrv = true) (h : mdone mem m = .ok (x, done)) : I2cInv x := by
  obtain ⟨-, e⟩ | ⟨he, hc, -⟩ | ⟨he, hc, -⟩ := mdone_cases mem m
  · rw [e] at h
    cases h
    have ended : TransferInv { m with i2cBusy := false, i2cRes := m.err } :=
      { d with cursor := fun h => (nomatch h), last := fun h => (nomatch h) }
    exact ended.withSlot (.idle hs rfl hscl hsda)
  · simp [he, hc] at hend
  · simp [he, hc] at hend

/-- MDONE with a byte left to send (R250): the byte's first slot begins under a low clock. -/
theorem TransferInv.mdone_more (d : TransferInv m) (hb : m.i2cBusy = true) (he : m.err = false)
    (hc : m.i2cCur ≠ m.i2cEnd) (hscl : m.sclDrv = false) (h : mdone mem m = .ok (x, done)) : I2cInv x := by
  obtain ⟨hend, -⟩ | ⟨-, -, b, -, e⟩ | ⟨-, -, -, e⟩ := mdone_cases mem m
  · simp [he, hc] at hend
  · rw [e] at h
    cases h
    have hne : m.i2cCur.toNat ≠ m.i2cEnd.toNat := fun h => hc (BitVec.eq_of_toNat_eq h)
    have hlt : m.i2cCur.toNat < m.i2cEnd.toNat := lt_of_le_of_ne (d.cursor hb) hne
    have hnext := toNat_add_one_of_lt hlt
    refine TransferInv.withSlot { d with cursor := fun _ => ?_, last := fun _ => ?_ }
      (.xmit rfl hb (by simp [hscl]) (fun h => by simp at h))
    · show (m.i2cCur + 1#32).toNat ≤ m.i2cEnd.toNat
      omega
    · simp
  · rw [e] at h
    cases h

theorem I2cInv.setMsa (k : I2cInv m) {msa : Byte} (h : msa[0] = false) : I2cInv { m with msa := msa } :=
  { k with write_only := h }

/-- An accepted start command (R233, R234): STOP follows the control byte exactly if there is nothing else to send. -/
theorem I2cInv.i2cStart (k : I2cInv m) (hb : m.i2cBusy = false) {cur stop : Addr} (byte : Byte) {c : McsCommand}
    (hc : c.bits[1] = true) (hle : cur.toNat ≤ stop.toNat) (hlast : c.bits[2] = true ↔ cur = stop) :
    I2cInv (issue c { m with i2cCur := cur, i2cEnd := stop, mdr := byte, i2cBusy := true }) := by
  obtain ⟨hscl, hsda⟩ := k.released (.inl (k.busy_seq.mp hb))
  rw [issue_start c hc]
  exact TransferInv.withSlot ⟨k.write_only, fun _ => hle, fun _ => hlast, rfl⟩ (.waitbus rfl rfl hscl hsda)

/-! ## The slots -/

theorem I2cInv.waitbusStep (k : I2cInv m) (hs : m.seq = .waitbus) (scl sda : Bool) :
    I2cInv (waitbusStep scl sda m) := by
  obtain ⟨hscl, hsda⟩ := k.released (.inr hs)
  unfold Machine.waitbusStep
  split
  · exact TransferInv.withSlot { k.transfer with } (.start rfl (k.busy (by simp [hs])) hscl (by simp [hsda]))
  · exact k

theorem I2cInv.startStep (k : I2cInv m) (hs : m.seq = .start) : I2cInv (startStep m) := by
  have d := k.transfer
  have hb := k.busy (by simp [hs])
  obtain ⟨hscl, hsda⟩ := k.start_lines hs
  obtain ⟨-, e⟩ | ⟨hp, e⟩ | ⟨hp, e⟩ | ⟨-, e⟩ := startStep_cases m <;> rw [e]
  · exact TransferInv.withSlot { d with } (.start hs hb hscl (by simp))
  · exact TransferInv.withSlot { d with } (.start hs hb hscl (by simpa [hp] using hsda))
  · exact TransferInv.withSlot { d with } (.start hs hb hscl (by simpa [hp] using hsda))
  · exact TransferInv.withSlot { d with } (.xmit rfl hb (by simp) (fun h => by simp at h))

theorem I2cInv.xmitStep (k : I2cInv m) (hs : m.seq = .xmit) (h : xmitStep mem scl sda m = .ok (x, done)) :
    I2cInv x := by
  have d := k.transfer
  have hb := k.busy (by simp [hs])
  have hscl := k.slot_scl (.inl hs)
  have hsda := k.xmit_sda hs
  obtain ⟨hp, e⟩ | ⟨hp, e⟩ | ⟨-, -, e⟩ | ⟨-, -, -, e⟩ | ⟨hp, -, -, e⟩ | ⟨-, -, e⟩ | ⟨-, -, e⟩ :=
    xmitStep_cases mem scl sda m <;> rw [e] at h
  · cases h
    exact TransferInv.withSlot { d with } (.xmit hs hb (by simpa [hp] using hscl) (fun _ => rfl))
  · cases h
    exact TransferInv.withSlot { d with } (.xmit hs hb (by simp) (fun _ => hsda (by simp [hp])))
  · cases h
    exact k
  · have lost : TransferInv (arbitrationLost m) := { d with err_cause := by simp [arbitrationLost] }
    exact lost.mdone_over (.inl rfl) rfl rfl rfl h
  · cases h
    exact TransferInv.withSlot { d with } (.xmit hs hb (by simpa [hp] using hscl) (fun _ => hsda (by simp [hp])))
  · cases h
    exact TransferInv.withSlot { d with } (.ack rfl hb (by simp) (fun h => by simp at h))
  · cases h
    exact TransferInv.withSlot { d with } (.xmit hs hb (by simp) (fun h => by simp at h))

/-- The end of the ACK slot (R265, phase 3), the clock driven low: MDONE is reached only with a byte left to send. -/
theorem TransferInv.ackEnd (d : TransferInv m) (hb : m.i2cBusy = true) (hscl : m.sclDrv = false) (hp : m.ph = 0#2)
    (h : ackEnd mem m = .ok (x, done)) : I2cInv x := by
  obtain ⟨why, e⟩ | e | ⟨he, hps, e⟩ := ackEnd_cases mem m <;> rw [e] at h
  · cases h
    exact TransferInv.withSlot { d with } (.stop rfl hb why (by simp [hscl, hp]) (fun h => by simp [hp] at h))
  · cases h
    exact TransferInv.withSlot { d with } (.xmit rfl hb (by simp [hscl, hp]) (fun h => by simp [hp] at h))
  · have hc : m.i2cCur ≠ m.i2cEnd := fun hc => by simp [(d.last hb).mpr hc] at hps
    have held : TransferInv { m with seq := .hold } := { d with }
    exact held.mdone_more hb he hc hscl h

theorem TransferInv.nack (d : TransferInv m) : TransferInv (nack m) := by
  obtain e | e := nack_cases m <;> rw [e]
  · exact { d with err_cause := by simp }
  · exact { d with err_cause := by simp }

theorem I2cInv.ackStep (k : I2cInv m) (hs : m.seq = .ack) (h : ackStep mem scl sda m = .ok (x, done)) : I2cInv x := by
  have d := k.transfer
  have hb := k.busy (by simp [hs])
  have hscl := k.slot_scl (.inr (.inl hs))
  have hsda := k.ack_sda hs
  obtain ⟨hp, e⟩ | ⟨hp, e⟩ | ⟨-, -, e⟩ | ⟨hp, -, -, e⟩ | ⟨hp, -, -, e⟩ | ⟨-, e⟩ :=
    ackStep_cases mem scl sda m <;> rw [e] at h
  · cases h
    exact TransferInv.withSlot { d with } (.ack hs hb (by simpa [hp] using hscl) (fun _ => rfl))
  · cases h
    exact TransferInv.withSlot { d with } (.ack hs hb (by simp) (fun _ => hsda (by simp [hp])))
  · cases h
    exact k
  · cases h
    refine TransferInv.withSlot { d.nack with } ?_
    obtain e | e := nack_cases m <;> rw [e]
    · exact .ack hs hb (by simpa [hp] using hscl) (fun _ => hsda (by simp [hp]))
    · exact .ack hs hb (by simpa [hp] using hscl) (fun _ => hsda (by simp [hp]))
  · cases h
    exact TransferInv.withSlot { d with } (.ack hs hb (by simpa [hp] using hscl) (fun _ => hsda (by simp [hp])))
  · have low : TransferInv { m with sclDrv := false, ph := 0#2 } := { d with }
    exact low.ackEnd hb rfl rfl h

theorem I2cInv.stopStep (k : I2cInv m) (hs : m.seq = .stop) (h : stopStep mem scl m = .ok (x, done)) : I2cInv x := by
  have d := k.transfer
  have hb := k.busy (by simp [hs])
  have why := k.stop_why hs
  have hscl := k.slot_scl (.inr (.inr hs))
  have hsda := k.stop_sda hs
  obtain ⟨hp, e⟩ | ⟨hp, e⟩ | ⟨-, -, e⟩ | ⟨hp, -, e⟩ | ⟨hp, e⟩ := stopStep_cases mem scl m <;> rw [e] at h
  · cases h
    exact TransferInv.withSlot { d with } (.stop hs hb why (by simpa [hp] using hscl) (fun _ => rfl))
  · cases h
    exact TransferInv.withSlot { d with } (.stop hs hb why (by simp) (fun _ => hsda (by simp [hp])))
  · cases h
    exact k
  · cases h
    exact TransferInv.withSlot { d with } (.stop hs hb why (by simpa [hp] using hscl) (fun _ => hsda (by simp [hp])))
  · have released : TransferInv { m with sdaDrv := true, seq := .idle, ph := 0#2 } := { d with }
    exact released.mdone_over (why.imp_right (d.last hb).mp) rfl (hscl.mpr (by simp [hp])) rfl h

theorem I2cInv.seqStep (k : I2cInv m) (h : seqStep mem scl sda m = .ok (x, done)) : I2cInv x := by
  unfold Machine.seqStep at h
  cases hs : m.seq <;> simp only [hs] at h
  case idle => cases h; exact k
  case waitbus => cases h; exact k.waitbusStep hs scl sda
  case start => cases h; exact k.startStep hs
  case xmit => exact k.xmitStep hs h
  case ack => exact k.ackStep hs h
  case hold => exact absurd hs k.no_hold
  case stop => exact k.stopStep hs h

end

end Sys2Proof.Machine
end

section
/-! The launch state has the invariant (10_state.md R49; 70_reset_and_hazards.md R340). -/

namespace Sys2Proof.Machine

theorem launch_stateInv {c : Cfg} {m : Memory} (hc : c.wf = true) (hm : m.wf) (l : LaunchLevels) :
    StateInv (State.launch c l m) :=
  have ⟨_, ⟨hbtnq, _⟩, hrxq, _⟩ := Cfg.wf_ranges hc
  ⟨hc, hm, hofInv_reset, debInv_reset hbtnq, txInv_reset, rxInv_reset hrxq l.rxd0, i2cInv_reset⟩

/-- Settles O9: every unit's reset values have its invariant, and State.reset is the launch state of the defaults. -/
theorem invariantHoldsAtLaunch : Obligations.InvariantHoldsAtLaunch :=
  ⟨fun _ l _ hc hm => launch_stateInv hc hm l, launch_stateInv (by decide) reset_mem_wf LaunchLevels.default⟩

end Sys2Proof.Machine
end

section
/-! Every step keeps the whole invariant: through the operations on the state, the handlers, the instructions and the host
writes. -/

namespace Sys2Proof.Machine

/-! ## The state's operations -/

section
variable {s t : State}

theorem StateInv.respond (k : StateInv s) (v : Resp) : StateInv (s.respond v) := { k with }

theorem StateInv.setInp (k : StateInv s) (i : Inputs) : StateInv (s.setInp i) := { k with }

theorem StateInv.consume (k : StateInv s) (rest : List TraceItem) (used : Nat) : StateInv (s.consume rest used) :=
  { k with }

theorem StateInv.setMem (k : StateInv s) {m : Memory} (hm : m.wf) : StateInv (s.setMem m) := { k with memory := hm }

theorem StateInv.setHof (k : StateInv s) {h : Hof} (hh : HofInv h) : StateInv (s.setHof h) := { k with hof := hh }

theorem StateInv.setDeb (k : StateInv s) {d : Deb} (hd : DebInv s.cfg d) : StateInv (s.setDeb d) := { k with deb := hd }

theorem StateInv.setTx (k : StateInv s) {x : UartTx} (hx : TxInv x) : StateInv (s.setTx x) := { k with tx := hx }

theorem StateInv.setRx (k : StateInv s) {r : UartRx} (hr : RxInv s.cfg r) : StateInv (s.setRx r) := { k with rx := hr }

theorem StateInv.setI2c (k : StateInv s) {m : I2cm} (hm : I2cInv m) : StateInv (s.setI2c m) := { k with i2c := hm }

theorem StateInv.takeFault (k : StateInv s) (f : FaultRecord) : StateInv (takeFault s f) :=
  { k with hof := k.hof.fault f }

theorem StateInv.resetBlock (k : StateInv s) : StateInv (resetBlock s) :=
  have ⟨_, ⟨hbtnq, _⟩, hrxq, _⟩ := Cfg.wf_ranges k.config
  ⟨k.config, k.memory, hofInv_reset, debInv_reset hbtnq, txInv_reset, rxInv_reset hrxq s.inp.rxd, i2cInv_reset⟩

theorem StateInv.onStimulus (k : StateInv s) {frozen : State} {h : Except FaultRecord State}
    (hfrozen : StateInv frozen) (hok : ∀ t, h = .ok t → StateInv t) : StateInv (onStimulus s frozen h) := by
  obtain ⟨-, e⟩ | ⟨-, t, ht, e⟩ | ⟨-, f, -, e⟩ := onStimulus_cases s frozen h <;> rw [e]
  · exact hfrozen
  · exact hok t ht
  · exact k.takeFault f

theorem StateInv.onCommand (k : StateInv s) {h : Except FaultRecord State} (hok : ∀ t, h = .ok t → StateInv t) :
    StateInv (onCommand s h) := by
  obtain ⟨-, e⟩ | ⟨-, t, ht, e⟩ | ⟨-, f, -, e⟩ := onCommand_cases s h <;> rw [e]
  · exact k.respond _
  · exact hok t ht
  · exact (k.takeFault f).respond _

/-- A command whose handler cannot fault. -/
theorem StateInv.onCommand_ok (k : StateInv s) (kt : StateInv t) : StateInv (Machine.onCommand s (.ok t)) :=
  k.onCommand fun _ ht => Except.ok.inj ht ▸ kt

/-! ## The handlers -/

theorem StateInv.irqClear (k : StateInv s) (mask : Byte) : StateInv (irqClear mask s) := by
  have hcleared := k.setHof (k.hof.unlatch (mask &&& latAll))
  unfold Machine.irqClear
  split
  · exact hcleared.setRx { k.rx with }
  · exact hcleared

theorem StateInv.i2cStart (k : StateInv s) (hb : s.i2c.i2cBusy = false) {cur stop : Addr} (byte : Byte) {c : McsCommand}
    (hc : c.bits[1] = true) (hle : cur.toNat ≤ stop.toNat) (hlast : c.bits[2] = true ↔ cur = stop) :
    StateInv (i2cStart cur stop byte c s) :=
  ((k.setI2c (k.i2c.i2cStart hb byte hc hle hlast)).setHof (k.hof.unlatch latI2cDone)).respond _

/-- I2C_WRITE (43_i2c.md R233) asks for STOP at once exactly if the buffer is empty. -/
theorem StateInv.i2cWriteHandler (k : StateInv s) {ctrl : Byte} {p : Addr} {n : BitVec 16}
    (h : i2cWriteHandler ctrl p n s = .ok t) : StateInv t := by
  obtain ⟨hb, hw, rfl⟩ := i2cWriteHandler_ok h
  have hend := toNat_bufEnd hw
  have hempty : n = 0#16 ↔ p = bufEnd p n := by bv_omega
  refine k.i2cStart hb ctrl ?_ (by omega) ?_
  · split <;> simp [McsCommand.bits]
  · rw [← hempty]
    by_cases hn : n = 0#16 <;> simp [hn, McsCommand.bits]

theorem StateInv.uartTxHandler (k : StateInv s) {p : Addr} {n : BitVec 16} (h : uartTxHandler p n s = .ok t) :
    StateInv t := by
  obtain ⟨-, hn, hw, b, -, rfl⟩ := uartTxHandler_ok h
  exact ((k.setTx (k.tx.txStart b hn hw)).setHof (k.hof.unlatch latTxDone)).respond _

theorem StateInv.tickHandler (k : StateInv s) (h : tickHandler s = .ok t) : StateInv t := by
  obtain ⟨hwindow, ⟨-, hbtnq⟩, -⟩ := Cfg.wf_ranges k.config
  obtain ⟨-, rfl⟩ | ⟨-, d, hd, rfl⟩ := tickHandler_ok h
  · exact k
  · exact k.setDeb (k.deb.debTick hwindow hbtnq hd)

theorem StateInv.baudHandler (k : StateInv s) (h : baudHandler s = .ok t) : StateInv t := by
  obtain ⟨-, -, -, hrxq⟩ := Cfg.wf_ranges k.config
  obtain ⟨x, done, hx, rfl⟩ := baudHandler_ok h
  have txDone : HofInv (latchIf done s.hof latTxDone) := k.hof.latchIf done (by decide)
  have rxErr := txDone.latchIf (rxStep s.cfg s.inp.rxd s.rx).2 (m := latRxErr) (by decide)
  exact ((k.setTx (k.tx.txStep hx)).setRx (k.rx.rxStep hrxq s.inp.rxd)).setHof rxErr

theorem StateInv.i2cqHandler (k : StateInv s) (h : i2cqHandler s = .ok t) : StateInv t := by
  obtain ⟨m, done, hm, rfl⟩ := i2cqHandler_ok h
  exact (k.setI2c (k.i2c.seqStep hm)).setHof (k.hof.latchIf done (by decide))

/-! ## The instructions -/

theorem StateInv.runCommand (k : StateInv s) {c : Command} (h : runCommand c s = .next t) : StateInv t := by
  obtain ⟨-, ⟨-, hbtnq⟩, -, hrxq⟩ := Cfg.wf_ranges k.config
  cases c <;> obtain rfl := Host.Outcome.next.inj h
  case nop => exact k.onCommand_ok (k.respond _)
  case status => exact k.respond _
  case xstatus => exact k.respond _
  case debPeek pin => exact k.onCommand_ok (k.respond _)
  case irqEn mask =>
    refine k.onCommand fun t ht => ?_
    obtain ⟨hm, rfl⟩ := irqEnHandler_ok ht
    exact (k.setHof (k.hof.irqEn hm)).respond _
  case irqClr mask =>
    refine k.onCommand fun t ht => ?_
    obtain ⟨-, rfl⟩ := irqClrHandler_ok ht
    exact (k.irqClear mask).respond _
  case faultInfo half => exact k.respond _
  case btnPop => exact k.onCommand_ok ((k.setDeb (k.deb.popRest hbtnq)).respond _)
  case uartTx p n => exact k.onCommand fun t ht => k.uartTxHandler ht
  case uartRxPop => exact k.onCommand_ok ((k.setRx (k.rx.popRest hrxq)).respond _)
  case i2cSetsa msa =>
    refine k.onCommand fun t ht => ?_
    obtain ⟨-, hr, rfl⟩ := i2cSetsaHandler_ok ht
    exact (k.setI2c (k.i2c.setMsa hr)).respond _
  case i2cWrite ctrl p n => exact k.onCommand fun t ht => k.i2cWriteHandler ht
  case i2cWriteOne byte =>
    refine k.onCommand fun t ht => ?_
    obtain ⟨hb, rfl⟩ := i2cWriteOneHandler_ok ht
    exact k.i2cStart hb byte (by decide) le_rfl (by decide)

theorem StateInv.exec (k : StateInv s) {i : Instr} (h : exec i s = .next t) : StateInv t := by
  obtain ⟨c, rfl⟩ | ⟨v, rfl⟩ | rfl | rfl | ⟨b, rfl⟩ | rfl | ⟨c, d, rfl⟩ | rfl | ⟨w, rfl⟩ := command_or_stimulus i
  · exact k.runCommand (exec_toInstr c s ▸ h)
  · obtain rfl := Host.Outcome.next.inj h
    obtain ⟨hwindow, -⟩ := Cfg.wf_ranges k.config
    have wire := k.setInp { s.inp with pins := v }
    exact k.onStimulus wire fun t ht => Except.ok.inj ht ▸ wire.setDeb (k.deb.debPins hwindow s.inp.pins v)
  · obtain rfl := Host.Outcome.next.inj h
    exact k.onStimulus k fun t ht => k.tickHandler ht
  · obtain rfl := Host.Outcome.next.inj h
    exact k.onStimulus k fun t ht => k.baudHandler ht
  · obtain rfl := Host.Outcome.next.inj h
    have wire := k.setInp { s.inp with rxd := b }
    exact k.onStimulus wire fun t ht => Except.ok.inj ht ▸ wire
  · obtain rfl := Host.Outcome.next.inj h
    exact k.onStimulus k fun t ht => k.i2cqHandler ht
  · obtain rfl := Host.Outcome.next.inj h
    have wire := k.setInp { s.inp with sclExt := c, sdaExt := d }
    exact k.onStimulus wire fun t ht => Except.ok.inj ht ▸ wire
  · obtain rfl := Host.Outcome.next.inj h
    exact k.resetBlock
  · obtain ⟨f, e⟩ | ⟨c, -, e⟩ := exec_evtCmd_cases w s <;> rw [e] at h
    · obtain rfl := Host.Outcome.next.inj h
      exact k.onCommand fun _ ht => (nomatch ht)
    · exact k.runCommand h

theorem StateInv.hostWrite (k : StateInv s) (a : Addr) (b : Byte) : StateInv (hostWrite s a b) := by
  obtain ⟨c, -, e⟩ | ⟨-, e⟩ := hostWrite_cases s a b <;> rw [e]
  · exact k.setMem (memPut_wf a.isLt k.memory)
  · exact k

theorem StateInv.step (k : StateInv s) (h : step s = .next t) : StateInv t := by
  obtain ⟨-, e⟩ | ⟨-, -, e⟩ | ⟨-, a, b, rest, -, e⟩ | ⟨-, i, rest, used, -, e⟩ | ⟨-, x, -, e⟩ := step_cases s <;>
    rw [e] at h
  · cases h
  · exact Host.Outcome.next.inj h ▸ k
  · exact Host.Outcome.next.inj h ▸ (k.hostWrite a b).consume rest 1
  · exact (k.consume rest used).exec h
  · cases h

end

/-- Settles O8: a step is an instruction on the consumed input, a host write, or nothing, and each keeps the invariant. -/
theorem everyStepKeepsTheInvariant : Obligations.EveryStepKeepsTheInvariant :=
  fun _ _ k h => k.step h

end Sys2Proof.Machine
end

section
/-! Which instructions raise and which drop each latch, error flag, busy flag and bus error flag, and the result bit
(10_state.md R40, R42; 40_handoff.md R121; 60_exceptions.md R311). -/

namespace Sys2Proof.Machine

/-- A flag the host can wait for or clear. -/
inductive Flag where
  | txDone
  | i2cDone
  | rxErr
  | fe
  | oe
  | i2cRes
  | txBusy
  | i2cBusy
  | err
  | adrack
  | datack
  | arblst

/-- The flag's bit of the state. -/
def Flag.get : Flag → State → Bool
  | .txDone, s => s.hof.irqLat[1]
  | .i2cDone, s => s.hof.irqLat[3]
  | .rxErr, s => s.hof.irqLat[4]
  | .fe, s => s.rx.fe
  | .oe, s => s.rx.oe
  | .i2cRes, s => s.i2c.i2cRes
  | .txBusy, s => s.tx.txBusy
  | .i2cBusy, s => s.i2c.i2cBusy
  | .err, s => s.i2c.err
  | .adrack, s => s.i2c.adrack
  | .datack, s => s.i2c.datack
  | .arblst, s => s.i2c.arblst

/-- The instructions that may raise a flag. CMD(w) may run any command. -/
def Flag.raisedBy : Flag → Instr → Prop
  | .txDone, i => i = .evtBaud16
  | .i2cDone, i => i = .evtI2cq
  | .rxErr, i => i = .evtBaud16
  | .fe, i => i = .evtBaud16
  | .oe, i => i = .evtBaud16
  | .i2cRes, i => i = .evtI2cq
  | .txBusy, i => ∃ p n, i = .uartTx p n
  | .i2cBusy, i => (∃ c p n, i = .i2cWrite c p n) ∨ ∃ b, i = .i2cWriteOne b
  | .err, i => i = .evtI2cq
  | .adrack, i => i = .evtI2cq
  | .datack, i => i = .evtI2cq
  | .arblst, i => i = .evtI2cq

/-- What may clear the bus error flags: RESET, or the start of the next I2C transfer. -/
def clearsBusErrors (i : Instr) : Prop :=
  i = .evtReset ∨ (∃ c p n, i = .i2cWrite c p n) ∨ ∃ b, i = .i2cWriteOne b

/-- The instructions that may drop a flag. -/
def Flag.droppedBy : Flag → Instr → Prop
  | .txDone, i => i = .evtReset ∨ (∃ p n, i = .uartTx p n) ∨ ∃ m, i = .irqClr m ∧ m[1] = true
  | .i2cDone, i => i = .evtReset ∨ (∃ c p n, i = .i2cWrite c p n) ∨ (∃ b, i = .i2cWriteOne b) ∨
      ∃ m, i = .irqClr m ∧ m[3] = true
  | .rxErr, i => i = .evtReset ∨ ∃ m, i = .irqClr m ∧ m[4] = true
  | .fe, i => i = .evtReset ∨ ∃ m, i = .irqClr m ∧ m[4] = true
  | .oe, i => i = .evtReset ∨ ∃ m, i = .irqClr m ∧ m[4] = true
  | .i2cRes, i => i = .evtI2cq ∨ i = .evtReset
  | .txBusy, i => i = .evtBaud16 ∨ i = .evtReset
  | .i2cBusy, i => i = .evtI2cq ∨ i = .evtReset
  | .err, i => clearsBusErrors i
  | .adrack, i => clearsBusErrors i
  | .datack, i => clearsBusErrors i
  | .arblst, i => clearsBusErrors i

/-- From `s` to `t` the flag moved only if `i` may move it that way. -/
structure Flag.MovesBy (f : Flag) (i : Instr) (s t : State) : Prop where
  rise : f.get s = false → f.get t = true → f.raisedBy i
  fall : f.get s = true → f.get t = false → f.droppedBy i

/-! ## The ways a flag moves -/

section
variable {f : Flag} {i : Instr} {s t : State}

theorem Flag.MovesBy.same (h : f.get t = f.get s) : f.MovesBy i s t :=
  ⟨fun h0 h1 => by simp [h, h0] at h1, fun h1 h0 => by simp [h, h1] at h0⟩

theorem Flag.MovesBy.mayRise (hi : f.raisedBy i) (h : f.get s = true → f.get t = true) : f.MovesBy i s t :=
  ⟨fun _ _ => hi, fun h1 h0 => by simp [h h1] at h0⟩

theorem Flag.MovesBy.mayFall (hi : f.droppedBy i) (h : f.get t = true → f.get s = true) : f.MovesBy i s t :=
  ⟨fun h0 h1 => by simp [h h1] at h0, fun _ _ => hi⟩

/-- The flag is cleared where `b` is true. -/
theorem Flag.MovesBy.clearedIf {b : Bool} (hi : b = true → f.droppedBy i) (h : f.get t = (f.get s && !b)) :
    f.MovesBy i s t := by
  cases b
  · exact .same (by simpa using h)
  · exact .mayFall (hi rfl) (by simp [h])

/-! ## The state's operations -/

/-- From `s` to `t` every flag moved only as `i` may move it. -/
def FlagsMoveBy (i : Instr) (s t : State) : Prop := ∀ f : Flag, f.MovesBy i s t

@[simp] theorem Flag.get_respond (f : Flag) (s : State) (v : Resp) : f.get (s.respond v) = f.get s := by
  cases f <;> rfl

@[simp] theorem Flag.get_setInp (f : Flag) (s : State) (w : Inputs) : f.get (s.setInp w) = f.get s := by
  cases f <;> rfl

@[simp] theorem Flag.get_setDeb (f : Flag) (s : State) (d : Deb) : f.get (s.setDeb d) = f.get s := by
  cases f <;> rfl

/-- Fault entry writes none of the flags (60_exceptions.md R303). -/
@[simp] theorem Flag.get_takeFault (f : Flag) (s : State) (r : FaultRecord) : f.get (takeFault s r) = f.get s := by
  cases f <;> rfl

@[simp] theorem Flag.get_resetBlock (f : Flag) (s : State) : f.get (resetBlock s) = false := by
  cases f <;> simp [Flag.get, Hof.reset, UartTx.reset, UartRx.reset, I2cm.reset]

theorem FlagsMoveBy.of_get_eq (h : ∀ f : Flag, f.get t = f.get s) : FlagsMoveBy i s t := fun f => .same (h f)

theorem FlagsMoveBy.refl (i : Instr) (s : State) : FlagsMoveBy i s s := .of_get_eq fun _ => rfl

theorem FlagsMoveBy.respond (k : FlagsMoveBy i s t) (v : Resp) : FlagsMoveBy i s (t.respond v) := fun f =>
  ⟨fun h0 h1 => (k f).rise h0 (f.get_respond t v ▸ h1), fun h1 h0 => (k f).fall h1 (f.get_respond t v ▸ h0)⟩

theorem onStimulus_flagsMoveBy {frozen : State} {h : Except FaultRecord State} (hfrozen : FlagsMoveBy i s frozen)
    (hok : ∀ t, h = .ok t → FlagsMoveBy i s t) : FlagsMoveBy i s (onStimulus s frozen h) := by
  obtain ⟨-, e⟩ | ⟨-, t, ht, e⟩ | ⟨-, r, -, e⟩ := onStimulus_cases s frozen h <;> rw [e]
  · exact hfrozen
  · exact hok t ht
  · exact .of_get_eq fun f => f.get_takeFault s r

theorem onCommand_flagsMoveBy {h : Except FaultRecord State} (hok : ∀ t, h = .ok t → FlagsMoveBy i s t) :
    FlagsMoveBy i s (onCommand s h) := by
  obtain ⟨-, e⟩ | ⟨-, t, ht, e⟩ | ⟨-, r, -, e⟩ := onCommand_cases s h <;> rw [e]
  · exact (FlagsMoveBy.refl i s).respond _
  · exact hok t ht
  · exact (FlagsMoveBy.of_get_eq fun f => f.get_takeFault s r).respond _

/-- A command whose handler cannot fault and moves no flag. -/
theorem onCommand_ok_flagsMoveBy (h : ∀ f : Flag, f.get t = f.get s) : FlagsMoveBy i s (onCommand s (.ok t)) :=
  onCommand_flagsMoveBy fun _ ht => Except.ok.inj ht ▸ .of_get_eq h

/-- RESET drops every flag (70_reset_and_hazards.md R340). -/
theorem resetBlock_flagsMoveBy (s : State) : FlagsMoveBy .evtReset s (resetBlock s) := fun f =>
  .mayFall (by cases f <;> simp [Flag.droppedBy, clearsBusErrors]) (by simp)

end

/-! ## The units: which way each flag of theirs can move -/

/-- The transmit step ends a transfer but begins none (42_uart.md R186, R189). -/
theorem txStep_txBusy {m : Memory} {u x : UartTx} {done : Bool} (h : txStep m u = .ok (x, done))
    (hx : x.txBusy = true) : u.txBusy = true := by
  have hshift : (txShift u).txBusy = u.txBusy := by
    obtain ⟨-, e⟩ | ⟨-, -, e⟩ | ⟨-, -, -, e⟩ | ⟨-, -, -, e⟩ := txShift_cases u <;> rw [e]
  obtain ⟨-, -, e⟩ | ⟨-, e⟩ := txStep_cases m u <;> rw [e] at h
  · obtain ⟨-, e⟩ | ⟨-, b, -, e⟩ | ⟨-, -, e⟩ := txe_cases m (txLoad (txShift u)) <;> rw [e] at h <;> cases h
    · cases hx
    · exact hshift.symm.trans hx
  · cases h
    exact hshift.symm.trans hx

theorem rxIdle_errors (rxd : Bool) (r : UartRx) : (rxIdle rxd r).fe = r.fe ∧ (rxIdle rxd r).oe = r.oe := by
  unfold rxIdle
  split <;> exact ⟨rfl, rfl⟩

theorem rxStart_errors (rxd : Bool) (r : UartRx) : (rxStart rxd r).fe = r.fe ∧ (rxStart rxd r).oe = r.oe := by
  unfold rxStart
  split
  · split <;> exact ⟨rfl, rfl⟩
  · exact ⟨rfl, rfl⟩

theorem rxData_errors (rxd : Bool) (r : UartRx) : (rxData rxd r).fe = r.fe ∧ (rxData rxd r).oe = r.oe := by
  unfold rxData
  split
  · split <;> exact ⟨rfl, rfl⟩
  · exact ⟨rfl, rfl⟩

theorem rxStop_errors (c : Cfg) (rxd : Bool) (r : UartRx) :
    (r.fe = true → (rxStop c rxd r).1.fe = true) ∧ (r.oe = true → (rxStop c rxd r).1.oe = true) := by
  unfold rxStop
  split
  · split
    · exact ⟨fun h => by simp [h], fun _ => rfl⟩
    · exact ⟨fun h => by simp [h], id⟩
  · exact ⟨id, id⟩

/-- The receive step drops neither error flag (R195, R199). -/
theorem rxStep_errors (c : Cfg) (rxd : Bool) (r : UartRx) :
    (r.fe = true → (rxStep c rxd r).1.fe = true) ∧ (r.oe = true → (rxStep c rxd r).1.oe = true) := by
  show (r.fe = true → (rxMachine c rxd r).1.fe = true) ∧ (r.oe = true → (rxMachine c rxd r).1.oe = true)
  unfold rxMachine
  cases r.rxSt with
  | idle => exact (rxIdle_errors rxd r).imp Eq.trans Eq.trans
  | start => exact (rxStart_errors rxd r).imp Eq.trans Eq.trans
  | data => exact (rxData_errors rxd r).imp Eq.trans Eq.trans
  | stop => exact rxStop_errors c rxd r

/-- From `m` to `x` no transfer began and no bus error flag was cleared. -/
structure TransferRuns (m x : I2cm) : Prop where
  busy : x.i2cBusy = true → m.i2cBusy = true
  err : m.err = true → x.err = true
  adrack : m.adrack = true → x.adrack = true
  datack : m.datack = true → x.datack = true
  arblst : m.arblst = true → x.arblst = true

theorem TransferRuns.refl (m : I2cm) : TransferRuns m m := ⟨id, id, id, id, id⟩

theorem TransferRuns.mdone {mem : Memory} {m n x : I2cm} {done : Bool} (k : TransferRuns m n)
    (h : mdone mem n = .ok (x, done)) : TransferRuns m x := by
  obtain ⟨-, e⟩ | ⟨-, -, b, -, e⟩ | ⟨-, -, -, e⟩ := mdone_cases mem n <;> rw [e] at h <;> cases h
  · exact { k with busy := fun h => by cases h }
  · exact { k with }

theorem TransferRuns.nack {m n : I2cm} (k : TransferRuns m n) : TransferRuns m (nack n) := by
  obtain e | e := nack_cases n <;> rw [e]
  · exact { k with err := fun _ => rfl, adrack := fun _ => rfl }
  · exact { k with err := fun _ => rfl, datack := fun _ => rfl }

theorem TransferRuns.ackEnd {mem : Memory} {m n x : I2cm} {done : Bool} (k : TransferRuns m n)
    (h : ackEnd mem n = .ok (x, done)) : TransferRuns m x := by
  obtain ⟨-, e⟩ | e | ⟨-, -, e⟩ := ackEnd_cases mem n <;> rw [e] at h
  · cases h
    exact { k with }
  · cases h
    exact { k with }
  · have held : TransferRuns m { n with seq := .hold } := { k with }
    exact held.mdone h

theorem startStep_runs (m : I2cm) : TransferRuns m (startStep m) := by
  obtain ⟨-, e⟩ | ⟨-, e⟩ | ⟨-, e⟩ | ⟨-, e⟩ := startStep_cases m <;> rw [e] <;> exact { TransferRuns.refl m with }

theorem xmitStep_runs {mem : Memory} {scl sda done : Bool} {m x : I2cm} (h : xmitStep mem scl sda m = .ok (x, done)) :
    TransferRuns m x := by
  have k := TransferRuns.refl m
  obtain ⟨-, e⟩ | ⟨-, e⟩ | ⟨-, -, e⟩ | ⟨-, -, -, e⟩ | ⟨-, -, -, e⟩ | ⟨-, -, e⟩ | ⟨-, -, e⟩ :=
    xmitStep_cases mem scl sda m <;> rw [e] at h
  case inr.inr.inr.inl =>
    have lost : TransferRuns m (arbitrationLost m) := { k with err := fun _ => rfl, arblst := fun _ => rfl }
    exact lost.mdone h
  all_goals
    cases h
    exact { k with }

theorem ackStep_runs {mem : Memory} {scl sda done : Bool} {m x : I2cm} (h : ackStep mem scl sda m = .ok (x, done)) :
    TransferRuns m x := by
  have k := TransferRuns.refl m
  obtain ⟨-, e⟩ | ⟨-, e⟩ | ⟨-, -, e⟩ | ⟨-, -, -, e⟩ | ⟨-, -, -, e⟩ | ⟨-, e⟩ :=
    ackStep_cases mem scl sda m <;> rw [e] at h
  case inr.inr.inr.inl =>
    cases h
    exact { k.nack with }
  case inr.inr.inr.inr.inr =>
    have low : TransferRuns m { m with sclDrv := false, ph := 0#2 } := { k with }
    exact low.ackEnd h
  all_goals
    cases h
    exact { k with }

theorem stopStep_runs {mem : Memory} {scl done : Bool} {m x : I2cm} (h : stopStep mem scl m = .ok (x, done)) :
    TransferRuns m x := by
  have k := TransferRuns.refl m
  obtain ⟨-, e⟩ | ⟨-, e⟩ | ⟨-, -, e⟩ | ⟨-, -, e⟩ | ⟨-, e⟩ := stopStep_cases mem scl m <;> rw [e] at h
  case inr.inr.inr.inr =>
    have released : TransferRuns m { m with sdaDrv := true, seq := .idle, ph := 0#2 } := { k with }
    exact released.mdone h
  all_goals
    cases h
    exact { k with }

/-- I2CQ begins no transfer and clears no bus error flag (43_i2c.md R260). -/
theorem seqStep_runs {mem : Memory} {scl sda done : Bool} {m x : I2cm} (h : seqStep mem scl sda m = .ok (x, done)) :
    TransferRuns m x := by
  unfold seqStep at h
  cases hs : m.seq <;> simp only [hs] at h
  case idle => cases h; exact .refl m
  case waitbus =>
    cases h
    unfold waitbusStep
    split
    · exact { TransferRuns.refl m with }
    · exact .refl m
  case start => cases h; exact startStep_runs m
  case xmit => exact xmitStep_runs h
  case ack => exact ackStep_runs h
  case hold => cases h; exact .refl m
  case stop => exact stopStep_runs h

/-! ## The handlers -/

section
variable {s t : State}

theorem getElem_unlatch (h : Hof) (m : Byte) (k : Nat) (hk : k < 8) :
    (unlatch h m).irqLat[k] = (h.irqLat[k] && !m[k]) := by
  simp [unlatch]

/-- Latching clears no latch. -/
theorem latchIf_mono (b : Bool) (h : Hof) (m : Byte) (k : Nat) (hk : k < 8) (hl : h.irqLat[k] = true) :
    (latchIf b h m).irqLat[k] = true := by
  simp [latchIf_irqLat, hl]

/-- Latching leaves the bits outside the mask. -/
theorem latchIf_other (b : Bool) (h : Hof) {m : Byte} (k : Nat) (hk : k < 8) (hm : m[k] = false) :
    (latchIf b h m).irqLat[k] = h.irqLat[k] := by
  cases b
  · rfl
  · simp [latch, hm]

/-- IRQ_CLR clears a latched cause by its mask bit (40_handoff.md R117). -/
theorem irqClear_irqLat (mask : Byte) (s : State) (k : Nat) (hk : k < 8) (hl : latAll[k] = true) :
    (irqClear mask s).hof.irqLat[k] = (s.hof.irqLat[k] && !mask[k]) := by
  unfold irqClear
  split <;> simp [unlatch, hl]

theorem irqClear_errors (mask : Byte) (s : State) :
    (irqClear mask s).rx.fe = (s.rx.fe && !mask[4]) ∧ (irqClear mask s).rx.oe = (s.rx.oe && !mask[4]) := by
  unfold irqClear
  cases h : mask[4] <;> simp

theorem irqClear_tx_i2c (mask : Byte) (s : State) : (irqClear mask s).tx = s.tx ∧ (irqClear mask s).i2c = s.i2c := by
  unfold irqClear
  split <;> exact ⟨rfl, rfl⟩

/-- IRQ_CLR (40_handoff.md R117) drops the latches of its mask, and the receive error flags with bit 4. -/
theorem irqClear_flagsMoveBy (mask : Byte) (s : State) : FlagsMoveBy (.irqClr mask) s (irqClear mask s) := by
  obtain ⟨hfe, hoe⟩ := irqClear_errors mask s
  obtain ⟨htx, hi2c⟩ := irqClear_tx_i2c mask s
  intro f
  cases f with
  | txDone =>
    exact .clearedIf (fun h => .inr (.inr ⟨mask, rfl, h⟩)) (irqClear_irqLat mask s 1 (by decide) (by decide))
  | i2cDone =>
    exact .clearedIf (fun h => .inr (.inr (.inr ⟨mask, rfl, h⟩))) (irqClear_irqLat mask s 3 (by decide) (by decide))
  | rxErr =>
    exact .clearedIf (fun h => .inr ⟨mask, rfl, h⟩) (irqClear_irqLat mask s 4 (by decide) (by decide))
  | fe => exact .clearedIf (fun h => .inr ⟨mask, rfl, h⟩) hfe
  | oe => exact .clearedIf (fun h => .inr ⟨mask, rfl, h⟩) hoe
  | txBusy => exact .same (congrArg UartTx.txBusy htx)
  | i2cRes => exact .same (congrArg I2cm.i2cRes hi2c)
  | i2cBusy => exact .same (congrArg I2cm.i2cBusy hi2c)
  | err => exact .same (congrArg I2cm.err hi2c)
  | adrack => exact .same (congrArg I2cm.adrack hi2c)
  | datack => exact .same (congrArg I2cm.datack hi2c)
  | arblst => exact .same (congrArg I2cm.arblst hi2c)

/-- UART_TX (42_uart.md R181) drops TXDONE and raises the busy flag. -/
theorem uartTxHandler_flagsMoveBy {p : Addr} {n : BitVec 16} (h : uartTxHandler p n s = .ok t) :
    FlagsMoveBy (.uartTx p n) s t := by
  obtain ⟨-, -, -, b, -, rfl⟩ := uartTxHandler_ok h
  refine FlagsMoveBy.respond (fun f => ?_) _
  cases f with
  | txDone => exact .clearedIf (fun _ => .inr (.inl ⟨p, n, rfl⟩)) (getElem_unlatch s.hof latTxDone 1 (by decide))
  | i2cDone => exact .same (by simp [Flag.get, unlatch, latTxDone])
  | rxErr => exact .same (by simp [Flag.get, unlatch, latTxDone])
  | txBusy => exact .mayRise ⟨p, n, rfl⟩ fun _ => rfl
  | _ => exact .same rfl

/-- An accepted start command (43_i2c.md R233, R234) drops I2CDONE and the bus error flags and raises the busy flag. -/
theorem i2cStart_flagsMoveBy {i : Instr} (hi : Flag.i2cBusy.raisedBy i) (cur stop : Addr) (byte : Byte) {c : McsCommand}
    (hc : c.bits[1] = true) (s : State) : FlagsMoveBy i s (i2cStart cur stop byte c s) := by
  have hclear : clearsBusErrors i := .inr hi
  unfold i2cStart
  rw [issue_start c hc]
  refine FlagsMoveBy.respond (fun f => ?_) _
  cases f with
  | txDone => exact .same (by simp [Flag.get, unlatch, latI2cDone])
  | i2cDone =>
    exact .clearedIf (fun _ => .inr (hi.imp_right .inl)) (getElem_unlatch s.hof latI2cDone 3 (by decide))
  | rxErr => exact .same (by simp [Flag.get, unlatch, latI2cDone])
  | i2cBusy => exact .mayRise hi fun _ => rfl
  | err => exact .mayFall hclear fun h => (nomatch h)
  | adrack => exact .mayFall hclear fun h => (nomatch h)
  | datack => exact .mayFall hclear fun h => (nomatch h)
  | arblst => exact .mayFall hclear fun h => (nomatch h)
  | _ => exact .same rfl

theorem tickHandler_flagsMoveBy (h : tickHandler s = .ok t) : FlagsMoveBy .evtTick s t := by
  obtain ⟨-, rfl⟩ | ⟨-, d, -, rfl⟩ := tickHandler_ok h
  · exact .refl _ _
  · exact .of_get_eq fun f => f.get_setDeb s d

/-- BAUD16 (42_uart.md R185) raises TXDONE, RXERR and the receive error flags and drops the busy flag. -/
theorem baudHandler_flagsMoveBy (h : baudHandler s = .ok t) : FlagsMoveBy .evtBaud16 s t := by
  obtain ⟨x, done, hx, rfl⟩ := baudHandler_ok h
  obtain ⟨hfe, hoe⟩ := rxStep_errors s.cfg s.inp.rxd s.rx
  intro f
  cases f with
  | txDone => exact .mayRise rfl fun h => latchIf_mono _ _ _ 1 (by decide) (latchIf_mono _ _ _ 1 (by decide) h)
  | i2cDone =>
    exact .same ((latchIf_other _ _ 3 (by decide) (by decide)).trans (latchIf_other _ _ 3 (by decide) (by decide)))
  | rxErr => exact .mayRise rfl fun h => latchIf_mono _ _ _ 4 (by decide) (latchIf_mono _ _ _ 4 (by decide) h)
  | fe => exact .mayRise rfl hfe
  | oe => exact .mayRise rfl hoe
  | txBusy => exact .mayFall (.inl rfl) (txStep_txBusy hx)
  | _ => exact .same rfl

/-- I2CQ (43_i2c.md R260) raises I2CDONE and the bus error flags, drops the busy flag and writes the result. -/
theorem i2cqHandler_flagsMoveBy (h : i2cqHandler s = .ok t) : FlagsMoveBy .evtI2cq s t := by
  obtain ⟨m, done, hm, rfl⟩ := i2cqHandler_ok h
  have runs := seqStep_runs hm
  intro f
  cases f with
  | txDone => exact .same (latchIf_other _ _ 1 (by decide) (by decide))
  | i2cDone => exact .mayRise rfl (latchIf_mono _ _ _ 3 (by decide))
  | rxErr => exact .same (latchIf_other _ _ 4 (by decide) (by decide))
  | i2cRes => exact ⟨fun _ _ => rfl, fun _ _ => .inl rfl⟩
  | i2cBusy => exact .mayFall (.inl rfl) runs.busy
  | err => exact .mayRise rfl runs.err
  | adrack => exact .mayRise rfl runs.adrack
  | datack => exact .mayRise rfl runs.datack
  | arblst => exact .mayRise rfl runs.arblst
  | _ => exact .same rfl

/-! ## The instructions -/

theorem runCommand_flagsMoveBy {c : Command} (h : runCommand c s = .next t) : FlagsMoveBy c.toInstr s t := by
  have k := FlagsMoveBy.refl c.toInstr s
  cases c <;> obtain rfl := Host.Outcome.next.inj h
  case nop => exact onCommand_ok_flagsMoveBy (by simp)
  case status => exact k.respond _
  case xstatus => exact k.respond _
  case debPeek pin => exact onCommand_ok_flagsMoveBy (by simp)
  case irqEn mask =>
    refine onCommand_flagsMoveBy fun t ht => ?_
    obtain ⟨-, rfl⟩ := irqEnHandler_ok ht
    exact FlagsMoveBy.respond (.of_get_eq fun f => by cases f <;> rfl) _
  case irqClr mask =>
    refine onCommand_flagsMoveBy fun t ht => ?_
    obtain ⟨-, rfl⟩ := irqClrHandler_ok ht
    exact (irqClear_flagsMoveBy mask s).respond _
  case faultInfo half => exact k.respond _
  case btnPop => exact onCommand_ok_flagsMoveBy (by simp)
  case uartTx p n => exact onCommand_flagsMoveBy fun t ht => uartTxHandler_flagsMoveBy ht
  case uartRxPop => exact onCommand_ok_flagsMoveBy fun f => by cases f <;> rfl
  case i2cSetsa msa =>
    refine onCommand_flagsMoveBy fun t ht => ?_
    obtain ⟨-, -, rfl⟩ := i2cSetsaHandler_ok ht
    exact FlagsMoveBy.respond (.of_get_eq fun f => by cases f <;> rfl) _
  case i2cWrite ctrl p n =>
    refine onCommand_flagsMoveBy fun t ht => ?_
    obtain ⟨-, -, rfl⟩ := i2cWriteHandler_ok ht
    exact i2cStart_flagsMoveBy (.inl ⟨ctrl, p, n, rfl⟩) _ _ _ (by split <;> simp [McsCommand.bits]) s
  case i2cWriteOne byte =>
    refine onCommand_flagsMoveBy fun t ht => ?_
    obtain ⟨-, rfl⟩ := i2cWriteOneHandler_ok ht
    exact i2cStart_flagsMoveBy (.inr ⟨byte, rfl⟩) _ _ _ (by decide) s

theorem exec_flagsMoveBy {i : Instr} (h : exec i s = .next t) (hw : ∀ w, i ≠ .evtCmd w) : FlagsMoveBy i s t := by
  obtain ⟨c, rfl⟩ | ⟨v, rfl⟩ | rfl | rfl | ⟨b, rfl⟩ | rfl | ⟨c, d, rfl⟩ | rfl | ⟨w, rfl⟩ := command_or_stimulus i
  · exact runCommand_flagsMoveBy (exec_toInstr c s ▸ h)
  · obtain rfl := Host.Outcome.next.inj h
    exact onStimulus_flagsMoveBy (.of_get_eq (by simp)) fun t ht => Except.ok.inj ht ▸ .of_get_eq (by simp)
  · obtain rfl := Host.Outcome.next.inj h
    exact onStimulus_flagsMoveBy (.refl _ s) fun t ht => tickHandler_flagsMoveBy ht
  · obtain rfl := Host.Outcome.next.inj h
    exact onStimulus_flagsMoveBy (.refl _ s) fun t ht => baudHandler_flagsMoveBy ht
  · obtain rfl := Host.Outcome.next.inj h
    exact onStimulus_flagsMoveBy (.of_get_eq (by simp)) fun t ht => Except.ok.inj ht ▸ .of_get_eq (by simp)
  · obtain rfl := Host.Outcome.next.inj h
    exact onStimulus_flagsMoveBy (.refl _ s) fun t ht => i2cqHandler_flagsMoveBy ht
  · obtain rfl := Host.Outcome.next.inj h
    exact onStimulus_flagsMoveBy (.of_get_eq (by simp)) fun t ht => Except.ok.inj ht ▸ .of_get_eq (by simp)
  · obtain rfl := Host.Outcome.next.inj h
    exact resetBlock_flagsMoveBy s
  · exact absurd rfl (hw w)

/-- A flag that changed went up or down. -/
theorem Flag.MovesBy.changed {f : Flag} {i : Instr} (k : f.MovesBy i s t) (h : f.get t ≠ f.get s) :
    f.raisedBy i ∨ f.droppedBy i := by
  cases hs : f.get s
  · exact .inl (k.rise hs (by simpa [hs] using h))
  · exact .inr (k.fall hs (by simpa [hs] using h))

end

/-- Settles O49: every flag moves only as its row of `Flag.raisedBy` and `Flag.droppedBy` says. -/
theorem latchesMoveOnlyByTheirEvents : Obligations.LatchesMoveOnlyByTheirEvents := by
  intro i s t h hw
  have k := exec_flagsMoveBy h hw
  refine ⟨(k .txDone).rise, (k .txDone).fall, (k .i2cDone).rise, (k .i2cDone).fall, (k .rxErr).rise, (k .rxErr).fall,
    (k .fe).rise, (k .fe).fall, (k .oe).rise, (k .oe).fall, fun hr => ?_, (k .txBusy).rise, (k .txBusy).fall,
    (k .i2cBusy).rise, (k .i2cBusy).fall, ?_⟩
  · exact ((k .i2cRes).changed hr).elim .inl id
  · simp only [List.forall_mem_cons]
    exact ⟨⟨(k .err).rise, (k .err).fall⟩, ⟨(k .adrack).rise, (k .adrack).fall⟩, ⟨(k .datack).rise, (k .datack).fall⟩,
      ⟨(k .arblst).rise, (k .arblst).fall⟩, List.forall_mem_nil _⟩

end Sys2Proof.Machine
end

section
/-! What a host write between two stimuli stores, and the step that takes it (20_memory.md R66; 70_reset_and_hazards.md
R350). -/

namespace Sys2Proof.Machine

/-- The frame of a host write: it stores to memory and its item is consumed. -/
theorem takeHostWrite_eq (s : State) (a : Addr) (b : Byte) (rest : List TraceItem) :
    takeHostWrite s a b rest =
      { s with mem := (hostWrite s a b).mem, pending := rest, position := s.position + 1 } := by
  obtain ⟨_, -, e⟩ | ⟨-, e⟩ := hostWrite_cases s a b <;> rw [takeHostWrite, e] <;> rfl

/-- Read after write, at the written address: what was not admitted stays so. -/
theorem memGet_hostWrite_same (s : State) (a : Addr) (b : Byte) :
    memGet (hostWrite s a b).mem a.toNat = (memGet s.mem a.toNat).map fun _ => b := by
  obtain ⟨c, hc, e⟩ | ⟨hn, e⟩ := hostWrite_cases s a b
  · rw [e, State.setMem_mem, memGet_memPut_same, hc, Option.map_some]
  · rw [e, hn, Option.map_none]

theorem memGet_hostWrite_other (s : State) {a : Addr} (b : Byte) {x : Nat} (h : x ≠ a.toNat) :
    memGet (hostWrite s a b).mem x = memGet s.mem x := by
  obtain ⟨_, -, e⟩ | ⟨-, e⟩ := hostWrite_cases s a b <;> rw [e]
  exact memGet_memPut_other s.mem b h

theorem step_of_pending_hostWrite {s : State} {a : Addr} {b : Byte} {rest : List TraceItem} (hw : s.cfg.wf = true)
    (hp : s.pending = .hostWrite a b :: rest) : step s = .next (takeHostWrite s a b rest) := by
  simp [step, fetch, hw, hp]

/-- Settles O11: the step takes the host write, whose memory reads `b` at an admitted `a` and as before elsewhere. -/
theorem hostWriteChangesOneAdmittedByte : Obligations.HostWriteChangesOneAdmittedByte := by
  intro s a b rest hw hp
  refine ⟨(hostWrite s a b).mem, ?_, fun x hx => memGet_hostWrite_other s b hx, memGet_hostWrite_same s a b⟩
  rw [step_of_pending_hostWrite hw hp, takeHostWrite_eq]

end Sys2Proof.Machine
end

section
/-! The command decoder as the tables of 30_encoding.md R82 and R83 give it: one row per opcode, the check of a row's
must-be-0 bits field by field, and the command whose word the row spells. -/

namespace Sys2Proof

/-- A row of R82 and R83: its opcode, its must-be-0 bits in X, N and P, and the command its fields spell. -/
structure CommandRow where
  op : Byte
  xZeros : Byte
  nZeros : BitVec 16
  pZeros : Addr
  build : Byte → BitVec 16 → Addr → Command

/-- The mask of R83: the opcode and the must-be-0 bits. -/
def CommandRow.mask (r : CommandRow) : CmdWord := packCmd (BitVec.allOnes 8) r.xZeros r.nZeros r.pZeros

/-- No must-be-0 bit of the row is set in the fields. -/
def CommandRow.Clear (r : CommandRow) (x : Byte) (n : BitVec 16) (p : Addr) : Prop :=
  x &&& r.xZeros = 0#8 ∧ n &&& r.nZeros = 0#16 ∧ p &&& r.pZeros = 0#32

/-- A row without operands. -/
def plainRow (op : Byte) (c : Command) : CommandRow :=
  ⟨op, .allOnes 8, .allOnes 16, .allOnes 32, fun _ _ _ => c⟩

/-- A row whose only operand is in X. -/
def xRow (op xZeros : Byte) (build : Byte → Command) : CommandRow :=
  ⟨op, xZeros, .allOnes 16, .allOnes 32, fun x _ _ => build x⟩

def debPeekRow : CommandRow := xRow 0x03#8 0xF8#8 fun x => .debPeek (x.extractLsb' 0 3)

def irqEnRow : CommandRow := xRow 0x04#8 0x60#8 .irqEn

def irqClrRow : CommandRow := xRow 0x05#8 0x60#8 .irqClr

def faultInfoRow : CommandRow := xRow 0x06#8 0xFE#8 fun x => .faultInfo (x.extractLsb' 0 1)

def uartTxRow : CommandRow := ⟨0x20#8, .allOnes 8, 0#16, 0#32, fun _ n p => .uartTx p n⟩

def i2cWriteRow : CommandRow := ⟨0x31#8, 0#8, 0#16, 0#32, fun x n p => .i2cWrite x p n⟩

/-- The 13 rows in the order of the tables. -/
def commandRows : List CommandRow :=
  [plainRow 0x00#8 .nop, plainRow 0x01#8 .status, plainRow 0x02#8 .xstatus, debPeekRow, irqEnRow, irqClrRow,
   faultInfoRow, plainRow 0x10#8 .btnPop, uartTxRow, plainRow 0x21#8 .uartRxPop, xRow 0x30#8 0#8 .i2cSetsa, i2cWriteRow,
   xRow 0x32#8 0#8 .i2cWriteOne]

/-- The rows are those of the statements' mask table. -/
theorem maskTable_eq_commandRows : maskTable = commandRows.map fun r => (r.op, r.mask) := by
  decide

/-- An opcode above zeros, as the decoder writes it. -/
theorem append_zero_eq_packCmd (op : Byte) : (op ++ 0#56 : CmdWord) = packCmd op 0#8 0#16 0#32 := by
  apply BitVec.eq_of_toNat_eq
  show (op ++ 0#56 : BitVec (8 + 56)).toNat = (op ++ 0#8 ++ 0#16 ++ 0#32 : BitVec (8 + 8 + 16 + 32)).toNat
  simp only [BitVec.toNat_append, BitVec.toNat_ofNat, Nat.zero_mod, Nat.or_zero, ← Nat.shiftLeft_add]

/-- An opcode above zeros, as the statements write it. -/
theorem setWidth_shiftLeft_eq_packCmd (op : Byte) : op.setWidth 64 <<< 56 = packCmd op 0#8 0#16 0#32 := by
  rw [← append_zero_eq_packCmd]
  apply BitVec.eq_of_toNat_eq
  show _ = (op ++ 0#56 : BitVec (8 + 56)).toNat
  have hop := op.isLt
  rw [BitVec.toNat_append, BitVec.toNat_shiftLeft, BitVec.toNat_setWidth, BitVec.toNat_ofNat, Nat.zero_mod, Nat.or_zero,
    Nat.shiftLeft_eq, Nat.shiftLeft_eq]
  omega

/-- A word agrees with its opcode under the row's mask exactly if its must-be-0 bits are 0. -/
theorem CommandRow.packCmd_and_mask_eq_iff (r : CommandRow) {op x : Byte} {n : BitVec 16} {p : Addr} :
    packCmd op x n p &&& r.mask = packCmd op 0#8 0#16 0#32 ↔ r.Clear x n p := by
  rw [mask, packCmd_and, packCmd_inj, BitVec.and_allOnes, eq_self, true_and, Clear]

theorem plainRow_clear_iff {op x : Byte} {n : BitVec 16} {p : Addr} {c : Command} :
    (plainRow op c).Clear x n p ↔ x = 0#8 ∧ n = 0#16 ∧ p = 0#32 := by
  simp only [CommandRow.Clear, plainRow, BitVec.and_allOnes]

theorem xRow_clear_iff {op z x : Byte} {n : BitVec 16} {p : Addr} {build : Byte → Command} :
    (xRow op z build).Clear x n p ↔ x &&& z = 0#8 ∧ n = 0#16 ∧ p = 0#32 := by
  simp only [CommandRow.Clear, xRow, BitVec.and_allOnes]

/-! ## The decoder -/

/-- The decoder reaches the row of the opcode and checks its mask (R84). -/
theorem decodeCmd64_packCmd {r : CommandRow} (hr : r ∈ commandRows) (x : Byte) (n : BitVec 16) (p : Addr) :
    decodeCmd64 (packCmd r.op x n p) = checkRow (packCmd r.op x n p) r.mask (r.build x n p) := by
  simp only [decodeCmd64, cmdOp_packCmd, cmdX_packCmd, cmdN_packCmd, cmdP_packCmd]
  fin_cases hr <;> rfl

/-- The check of a row (R84), field by field. -/
theorem checkRow_packCmd (r : CommandRow) (op x : Byte) (n : BitVec 16) (p : Addr) (c : Command) :
    (r.Clear x n p → checkRow (packCmd op x n p) r.mask c = .cmd c) ∧
      (¬ r.Clear x n p → checkRow (packCmd op x n p) r.mask c = .reserved op) := by
  have key : packCmd op x n p &&& r.mask = cmdOp (packCmd op x n p) ++ 0#56 ↔ r.Clear x n p := by
    rw [cmdOp_packCmd, append_zero_eq_packCmd, r.packCmd_and_mask_eq_iff]
  exact ⟨fun h => if_pos (key.mpr h), fun h => (if_neg (mt key.mp h)).trans (by rw [cmdOp_packCmd])⟩

theorem decodeCmd64_of_clear {r : CommandRow} (hr : r ∈ commandRows) {x : Byte} {n : BitVec 16} {p : Addr}
    (h : r.Clear x n p) : decodeCmd64 (packCmd r.op x n p) = .cmd (r.build x n p) :=
  (decodeCmd64_packCmd hr x n p).trans ((checkRow_packCmd r r.op x n p _).1 h)

theorem decodeCmd64_of_not_clear {r : CommandRow} (hr : r ∈ commandRows) {x : Byte} {n : BitVec 16} {p : Addr}
    (h : ¬ r.Clear x n p) : decodeCmd64 (packCmd r.op x n p) = .reserved r.op :=
  (decodeCmd64_packCmd hr x n p).trans ((checkRow_packCmd r r.op x n p _).2 h)

theorem decodeCmd64_of_no_row {w : CmdWord} (h : ∀ r ∈ commandRows, r.op ≠ cmdOp w) :
    decodeCmd64 w = .illegal (cmdOp w) := by
  simp only [commandRows, plainRow, debPeekRow, irqEnRow, irqClrRow, faultInfoRow, uartTxRow, i2cWriteRow, xRow,
    List.forall_mem_cons, ne_comm (b := cmdOp w)] at h
  simp only [decodeCmd64, h, if_false]

/-- A word whose opcode has a row is that row's word. -/
theorem packCmd_row_fields {r : CommandRow} {w : CmdWord} (h : r.op = cmdOp w) :
    packCmd r.op (cmdX w) (cmdN w) (cmdP w) = w :=
  h ▸ packCmd_fields w

/-! ## The commands of the rows -/

theorem pin_append_eq {x : Byte} (h : x &&& 0xF8#8 = 0#8) : 0#5 ++ x.extractLsb' 0 3 = x := by
  revert x
  decide

theorem half_append_eq {x : Byte} (h : x &&& 0xFE#8 = 0#8) : 0#7 ++ x.extractLsb' 0 1 = x := by
  revert x
  decide

/-- The row builds well-formed commands whose words are the row's. -/
def CommandRow.Spells (r : CommandRow) : Prop :=
  ∀ x n p, r.Clear x n p → (r.build x n p).wf = true ∧ (r.build x n p).word = packCmd r.op x n p

theorem plainRow_spells {op : Byte} {c : Command} (hwf : c.wf = true) (hword : c.word = packCmd op 0#8 0#16 0#32) :
    (plainRow op c).Spells := by
  intro x n p h
  obtain ⟨rfl, rfl, rfl⟩ := plainRow_clear_iff.mp h
  exact ⟨hwf, hword⟩

theorem xRow_spells {op z : Byte} {build : Byte → Command}
    (hx : ∀ x, x &&& z = 0#8 → (build x).wf = true ∧ (build x).word = packCmd op x 0#16 0#32) :
    (xRow op z build).Spells := by
  intro x n p h
  obtain ⟨hz, rfl, rfl⟩ := xRow_clear_iff.mp h
  exact hx x hz

theorem irqMaskOk_iff {mask : Byte} : irqMaskOk mask = true ↔ mask &&& 0x60#8 = 0#8 := beq_iff_eq

theorem debPeekRow_spells : debPeekRow.Spells :=
  xRow_spells fun _ hx => ⟨rfl, congrArg (packCmd 0x03#8 · 0#16 0#32) (pin_append_eq hx)⟩

theorem irqEnRow_spells : irqEnRow.Spells :=
  xRow_spells fun _ hx => ⟨irqMaskOk_iff.mpr hx, rfl⟩

theorem irqClrRow_spells : irqClrRow.Spells :=
  xRow_spells fun _ hx => ⟨irqMaskOk_iff.mpr hx, rfl⟩

theorem faultInfoRow_spells : faultInfoRow.Spells :=
  xRow_spells fun _ hx => ⟨rfl, congrArg (packCmd 0x06#8 · 0#16 0#32) (half_append_eq hx)⟩

theorem uartTxRow_spells : uartTxRow.Spells := by
  intro x n p h
  obtain ⟨hx, -⟩ := h
  have hx : x = 0#8 := BitVec.and_allOnes.symm.trans hx
  exact ⟨rfl, congrArg (packCmd 0x20#8 · n p) hx.symm⟩

theorem commandRows_spell : ∀ r ∈ commandRows, r.Spells := by
  simp only [commandRows, List.forall_mem_cons]
  exact ⟨plainRow_spells rfl rfl, plainRow_spells rfl rfl, plainRow_spells rfl rfl, debPeekRow_spells, irqEnRow_spells,
    irqClrRow_spells, faultInfoRow_spells, plainRow_spells rfl rfl, uartTxRow_spells, plainRow_spells rfl rfl,
    xRow_spells fun _ _ => ⟨rfl, rfl⟩, fun _ _ _ _ => ⟨rfl, rfl⟩, xRow_spells fun _ _ => ⟨rfl, rfl⟩,
    List.forall_mem_nil _⟩

/-- The command is one that some row builds. -/
def Command.Built (c : Command) : Prop :=
  ∃ r ∈ commandRows, ∃ x n p, r.Clear x n p ∧ r.build x n p = c

theorem built_of_plainRow {op : Byte} {c : Command} (hr : plainRow op c ∈ commandRows) : c.Built :=
  ⟨_, hr, 0#8, 0#16, 0#32, plainRow_clear_iff.mpr ⟨rfl, rfl, rfl⟩, rfl⟩

theorem built_of_xRow {op z : Byte} {build : Byte → Command} (hr : xRow op z build ∈ commandRows) {x : Byte}
    (hx : x &&& z = 0#8) {c : Command} (hc : build x = c) : c.Built :=
  ⟨_, hr, x, 0#16, 0#32, xRow_clear_iff.mpr ⟨hx, rfl, rfl⟩, hc⟩

theorem debPeekRow_mem : debPeekRow ∈ commandRows := by simp [commandRows]

theorem irqEnRow_mem : irqEnRow ∈ commandRows := by simp [commandRows]

theorem irqClrRow_mem : irqClrRow ∈ commandRows := by simp [commandRows]

theorem faultInfoRow_mem : faultInfoRow ∈ commandRows := by simp [commandRows]

theorem built_of_wf {c : Command} (h : c.wf = true) : c.Built := by
  cases c with
  | nop => exact built_of_plainRow (op := 0x00#8) (by simp [commandRows])
  | status => exact built_of_plainRow (op := 0x01#8) (by simp [commandRows])
  | xstatus => exact built_of_plainRow (op := 0x02#8) (by simp [commandRows])
  | debPeek pin =>
    have hx : (0#5 ++ pin : Byte) &&& 0xF8#8 = 0#8 := by revert pin; decide
    have hpin : (0#5 ++ pin : Byte).extractLsb' 0 3 = pin := BitVec.extractLsb'_append_eq_right
    exact built_of_xRow (hr := debPeekRow_mem) hx (congrArg Command.debPeek hpin)
  | irqEn mask => exact built_of_xRow (hr := irqEnRow_mem) (irqMaskOk_iff.mp h) rfl
  | irqClr mask => exact built_of_xRow (hr := irqClrRow_mem) (irqMaskOk_iff.mp h) rfl
  | faultInfo half =>
    have hx : (0#7 ++ half : Byte) &&& 0xFE#8 = 0#8 := by revert half; decide
    have hhalf : (0#7 ++ half : Byte).extractLsb' 0 1 = half := BitVec.extractLsb'_append_eq_right
    exact built_of_xRow (hr := faultInfoRow_mem) hx (congrArg Command.faultInfo hhalf)
  | btnPop => exact built_of_plainRow (op := 0x10#8) (by simp [commandRows])
  | uartTx p n => exact ⟨uartTxRow, by simp [commandRows], 0#8, n, p, by simp [CommandRow.Clear, uartTxRow], rfl⟩
  | uartRxPop => exact built_of_plainRow (op := 0x21#8) (by simp [commandRows])
  | i2cSetsa msa => exact built_of_xRow (op := 0x30#8) (by simp [commandRows]) BitVec.and_zero rfl
  | i2cWrite x p n =>
    exact ⟨i2cWriteRow, by simp [commandRows], x, n, p, by simp [CommandRow.Clear, i2cWriteRow], rfl⟩
  | i2cWriteOne b => exact built_of_xRow (op := 0x32#8) (by simp [commandRows]) BitVec.and_zero rfl

/-- R83, R84 as one equivalence. -/
theorem decodeCmd64_eq_cmd_iff {w : CmdWord} {c : Command} : decodeCmd64 w = .cmd c ↔ c.wf = true ∧ c.word = w := by
  constructor
  · intro hd
    by_cases hrow : ∀ r ∈ commandRows, r.op ≠ cmdOp w
    · rw [decodeCmd64_of_no_row hrow] at hd
      cases hd
    · push Not at hrow
      obtain ⟨r, hr, hop⟩ := hrow
      rw [← packCmd_row_fields hop] at hd ⊢
      by_cases hc : r.Clear (cmdX w) (cmdN w) (cmdP w)
      · rw [decodeCmd64_of_clear hr hc] at hd
        cases hd
        exact commandRows_spell r hr _ _ _ hc
      · rw [decodeCmd64_of_not_clear hr hc] at hd
        cases hd
  · rintro ⟨hwf, rfl⟩
    obtain ⟨r, hr, x, n, p, hc, rfl⟩ := built_of_wf hwf
    obtain ⟨-, hword⟩ := commandRows_spell r hr _ _ _ hc
    rw [hword, decodeCmd64_of_clear hr hc]

/-- Settles O2: the rows cover exactly the words of the well-formed commands. -/
theorem commandWordsDecodeOneToOne : Obligations.CommandWordsDecodeOneToOne :=
  fun _ _ => decodeCmd64_eq_cmd_iff

/-! ## The mask table -/

theorem mem_maskTable_iff {op : Byte} {m : CmdWord} :
    (op, m) ∈ maskTable ↔ ∃ r ∈ commandRows, r.op = op ∧ r.mask = m := by
  simp only [maskTable_eq_commandRows, List.mem_map, Prod.mk.injEq]

theorem and_mask_eq_iff (r : CommandRow) (w : CmdWord) :
    w &&& r.mask = (cmdOp w).setWidth 64 <<< 56 ↔ r.Clear (cmdX w) (cmdN w) (cmdP w) := by
  rw [setWidth_shiftLeft_eq_packCmd, ← r.packCmd_and_mask_eq_iff (op := cmdOp w), packCmd_fields]

/-- Settles O3: no row, a row with a must-be-0 bit set, or a row whose word it is. -/
theorem opcodeCheckedBeforeReservedFields : Obligations.OpcodeCheckedBeforeReservedFields := by
  intro w
  show (_ → decodeCmd64 w = .illegal (cmdOp w)) ∧ _
  refine ⟨fun h => decodeCmd64_of_no_row fun r hr hop => h r.mask (mem_maskTable_iff.mpr ⟨r, hr, hop, rfl⟩), ?_, ?_⟩
  · intro m hm hne
    obtain ⟨r, hr, hop, rfl⟩ := mem_maskTable_iff.mp hm
    have hop : r.op = cmdOp w := hop
    have hd := decodeCmd64_of_not_clear hr (mt (and_mask_eq_iff r w).mpr hne)
    rwa [packCmd_row_fields hop, hop] at hd
  · intro m hm heq
    obtain ⟨r, hr, hop, rfl⟩ := mem_maskTable_iff.mp hm
    have hclear := (and_mask_eq_iff r w).mp heq
    have hd := decodeCmd64_of_clear hr hclear
    obtain ⟨-, hword⟩ := commandRows_spell r hr _ _ _ hclear
    rw [packCmd_row_fields hop] at hd hword
    exact ⟨_, hd, hword⟩

/-! ## Masks with a reserved bit -/

theorem decodeCmd64_irqEn_reserved {mask : Byte} (h : mask &&& 0x60#8 ≠ 0#8) :
    decodeCmd64 (Command.irqEn mask).word = .reserved 0x04#8 :=
  decodeCmd64_of_not_clear irqEnRow_mem fun hc => h (xRow_clear_iff.mp hc).1

theorem decodeCmd64_irqClr_reserved {mask : Byte} (h : mask &&& 0x60#8 ≠ 0#8) :
    decodeCmd64 (Command.irqClr mask).word = .reserved 0x05#8 :=
  decodeCmd64_of_not_clear irqClrRow_mem fun hc => h (xRow_clear_iff.mp hc).1

namespace Machine

/-- CMD(w) of a word with a must-be-0 bit set (40_handoff.md R111). -/
theorem exec_evtCmd_of_reserved {w : CmdWord} {op : Byte} (h : decodeCmd64 w = .reserved op) (s : State) :
    exec (.evtCmd w) s = .next (onCommand s (.error { code := .rsvdField, info := w })) := by
  show execEvtCmd w s = _
  rw [execEvtCmd, h]

theorem irqEnHandler_of_reserved {mask : Byte} (h : mask &&& 0x60#8 ≠ 0#8) (s : State) :
    irqEnHandler mask s = .error { code := .rsvdField, info := (Command.irqEn mask).word } :=
  if_neg (mt irqMaskOk_iff.mp h)

theorem irqClrHandler_of_reserved {mask : Byte} (h : mask &&& 0x60#8 ≠ 0#8) (s : State) :
    irqClrHandler mask s = .error { code := .rsvdField, info := (Command.irqClr mask).word } :=
  if_neg (mt irqMaskOk_iff.mp h)

/-- Settles O21: the term's handler and the word's decoder raise the same fault behind the same gate. -/
theorem reservedMaskTermsActAsTheirWords : Obligations.ReservedMaskTermsActAsTheirWords := by
  intro s mask h
  refine ⟨⟨_, ?_, exec_evtCmd_of_reserved (decodeCmd64_irqEn_reserved h) s⟩,
    ⟨_, ?_, exec_evtCmd_of_reserved (decodeCmd64_irqClr_reserved h) s⟩⟩
  · exact congrArg (Host.Outcome.next <| onCommand s ·) (irqEnHandler_of_reserved h s)
  · exact congrArg (Host.Outcome.next <| onCommand s ·) (irqClrHandler_of_reserved h s)

end Machine

end Sys2Proof
end

section
/-! The stimulus decoder (30_encoding.md R91, R92), and the round trip of a whole instruction. -/

namespace Sys2Proof

/-! ## The round trip -/

theorem decodeCmd64_word {c : Command} (h : c.wf = true) : decodeCmd64 c.word = .cmd c :=
  decodeCmd64_eq_cmd_iff.mpr ⟨h, rfl⟩

theorem encode_toInstr (c : Command) : encode c.toInstr = [.command c.word] := by
  cases c <;> rfl

theorem wf_toInstr (c : Command) : c.toInstr.wf = c.wf := by
  cases c <;> rfl

theorem readTrace_event {h : EvtWord} {i : Instr} (hd : decodeEvt16 h = .event i) (rest : List TraceItem) :
    readTrace (.half h :: rest) = .run i rest 1 := by
  simp only [readTrace, hd]

theorem readTrace_badTag {h : EvtWord} {t : Byte} (hd : decodeEvt16 h = .badTag t) (rest : List TraceItem) :
    readTrace (.half h :: rest) = .refused (.badTag t) := by
  simp only [readTrace, hd]

theorem readTrace_badPayload {h : EvtWord} {t v : Byte} (hd : decodeEvt16 h = .badPayload t v)
    (rest : List TraceItem) : readTrace (.half h :: rest) = .refused (.badPayload t v) := by
  simp only [readTrace, hd]

theorem readTrace_cmd {h : EvtWord} (hd : decodeEvt16 h = .cmdHeader) (w : CmdWord) (rest : List TraceItem) :
    readTrace (.half h :: .command w :: rest) = .run (.evtCmd w) rest 2 := by
  simp only [readTrace, hd]

theorem readTrace_encode_toInstr {c : Command} (h : c.wf = true) (rest : List TraceItem) :
    readTrace (encode c.toInstr ++ rest) = .run c.toInstr rest (encode c.toInstr).length := by
  rw [encode_toInstr, ← Machine.portInstr_cmd (decodeCmd64_word h)]
  rfl

/-- The pins' word takes every payload. -/
theorem decodeEvt16_pins (v : Byte) : decodeEvt16 (packEvt 0x01#8 v) = .event (.evtPins v) := by
  simp [decodeEvt16]

/-- Reading back what the encoder wrote (R83, R84, R91). -/
theorem readTrace_encode {i : Instr} (h : i.wf = true) (rest : List TraceItem) :
    readTrace (encode i ++ rest) = .run i rest (encode i).length := by
  obtain ⟨c, rfl⟩ | ⟨v, rfl⟩ | rfl | rfl | ⟨b, rfl⟩ | rfl | ⟨c, d, rfl⟩ | rfl | ⟨w, rfl⟩ :=
    Machine.command_or_stimulus i
  · exact readTrace_encode_toInstr (wf_toInstr c ▸ h) rest
  · exact readTrace_event (decodeEvt16_pins v) rest
  · exact readTrace_event (by decide) rest
  · exact readTrace_event (by decide) rest
  · exact readTrace_event (by cases b <;> decide) rest
  · exact readTrace_event (by decide) rest
  · exact readTrace_event (by cases c <;> cases d <;> decide) rest
  · exact readTrace_event (by decide) rest
  · exact readTrace_cmd (by decide) w rest

/-- Settles O1: command by command through the rows of R83, stimulus by stimulus through the tags of R91. -/
theorem decodeEncodeEveryInstruction : Obligations.DecodeEncodeEveryInstruction :=
  fun _ rest h => readTrace_encode h rest

/-! ## Stimulus words -/

/-- A stimulus word is its two fields. -/
theorem packEvt_fields (h : EvtWord) : packEvt (evtTag h) (evtPayload h) = h := by
  show (h.extractLsb' (0 + 8) 8 ++ h.extractLsb' 0 8 : BitVec (8 + 8)) = h
  rw [BitVec.extractLsb'_append_extractLsb'_eq_extractLsb' rfl, BitVec.extractLsb'_eq_self]

theorem decodeEvt16_of_unknown_tag {h : EvtWord} (ht : evtTag h = 0#8 ∨ 9 ≤ (evtTag h).toNat) :
    decodeEvt16 h = .badTag (evtTag h) := by
  have hne : ∀ k : Byte, 1 ≤ k.toNat → k.toNat ≤ 8 → evtTag h ≠ k := by
    rintro k h1 h8 rfl
    obtain h0 | h9 := ht
    · simp [h0] at h1
    · omega
  simp [decodeEvt16, hne]

/-- The eight tags of R91. -/
theorem tag_cases {v : Byte} (h1 : 1 ≤ v.toNat) (h8 : v.toNat ≤ 8) :
    v = 1#8 ∨ v = 2#8 ∨ v = 3#8 ∨ v = 4#8 ∨ v = 5#8 ∨ v = 6#8 ∨ v = 7#8 ∨ v = 8#8 := by
  bv_omega

theorem level_append_eq {v : Byte} (h : v &&& 0xFE#8 = 0#8) : 0#7 ++ BitVec.ofBool v[0] = v := by
  revert v
  decide

theorem levels_append_eq {v : Byte} (h : v &&& 0xFC#8 = 0#8) :
    0#6 ++ BitVec.ofBool v[1] ++ BitVec.ofBool v[0] = v := by
  revert v
  decide

/-- A known tag checks the payload bits that R91 marks 0; a word that passes is its stimulus's encoding. -/
theorem decodeEvt16_of_known_tag {h : EvtWord} (h1 : 1 ≤ (evtTag h).toNat) (h8 : (evtTag h).toNat ≤ 8) :
    ∃ d, decodeEvt16 h = checkPayload h (payloadZeros (evtTag h)) d ∧
      ((evtTag h).toNat ≤ 7 → evtPayload h &&& payloadZeros (evtTag h) = 0#8 →
        ∃ i, d = .event i ∧ encode i = [.half h]) := by
  have word {t v : Byte} (ht : evtTag h = t) (hv : v = evtPayload h) : [TraceItem.half (packEvt t v)] = [.half h] := by
    rw [← ht, hv, packEvt_fields]
  have blank (hz : evtPayload h &&& 0xFF#8 = 0#8) : 0#8 = evtPayload h := (BitVec.and_allOnes.symm.trans hz).symm
  obtain ht | ht | ht | ht | ht | ht | ht | ht := tag_cases h1 h8 <;> rw [ht]
  · exact ⟨.event (.evtPins (evtPayload h)), by simp [decodeEvt16, checkPayload, payloadZeros, ht],
      fun _ _ => ⟨_, rfl, word ht rfl⟩⟩
  · exact ⟨.event .evtTick, by simp [decodeEvt16, payloadZeros, ht], fun _ hz => ⟨_, rfl, word ht (blank hz)⟩⟩
  · exact ⟨.event .evtBaud16, by simp [decodeEvt16, payloadZeros, ht], fun _ hz => ⟨_, rfl, word ht (blank hz)⟩⟩
  · exact ⟨.event (.evtRxd (evtPayload h)[0]), by simp [decodeEvt16, payloadZeros, ht],
      fun _ hz => ⟨_, rfl, word ht (level_append_eq hz)⟩⟩
  · exact ⟨.event .evtI2cq, by simp [decodeEvt16, payloadZeros, ht], fun _ hz => ⟨_, rfl, word ht (blank hz)⟩⟩
  · exact ⟨.event (.evtBusext (evtPayload h)[0] (evtPayload h)[1]), by simp [decodeEvt16, payloadZeros, ht],
      fun _ hz => ⟨_, rfl, word ht (levels_append_eq hz)⟩⟩
  · exact ⟨.event .evtReset, by simp [decodeEvt16, payloadZeros, ht], fun _ hz => ⟨_, rfl, word ht (blank hz)⟩⟩
  · exact ⟨.cmdHeader, by simp [decodeEvt16, payloadZeros, ht], fun h7 => absurd h7 (by decide)⟩

theorem decodeEvt16_of_bad_payload {h : EvtWord} (h1 : 1 ≤ (evtTag h).toNat) (h8 : (evtTag h).toNat ≤ 8)
    (hz : evtPayload h &&& payloadZeros (evtTag h) ≠ 0#8) :
    decodeEvt16 h = .badPayload (evtTag h) (evtPayload h) := by
  obtain ⟨d, hd, -⟩ := decodeEvt16_of_known_tag h1 h8
  rw [hd, checkPayload, if_neg hz]

theorem decodeEvt16_of_stimulus {h : EvtWord} (h1 : 1 ≤ (evtTag h).toNat) (h7 : (evtTag h).toNat ≤ 7)
    (hz : evtPayload h &&& payloadZeros (evtTag h) = 0#8) :
    ∃ i, encode i = [.half h] ∧ decodeEvt16 h = .event i := by
  obtain ⟨d, hd, hstim⟩ := decodeEvt16_of_known_tag h1 (by omega)
  obtain ⟨i, rfl, hi⟩ := hstim h7 hz
  exact ⟨i, hi, by rw [hd, checkPayload, if_pos hz]⟩

/-! ## The step -/

namespace Machine

theorem step_of_readTrace_run {s : State} {i : Instr} {rest : List TraceItem} {used : Nat} (hw : s.cfg.wf = true)
    (h : readTrace s.pending = .run i rest used) : step s = exec i (s.consume rest used) := by
  simp only [step, hw, if_true, fetch, h]

theorem step_of_readTrace_refused {s : State} {e : TraceError} (hw : s.cfg.wf = true)
    (h : readTrace s.pending = .refused e) : step s = .refused (.badTrace s.position e) := by
  simp only [step, hw, if_true, fetch, h]

/-- Settles O6: the step on a decoded input, and the round trip of the encoder. -/
theorem stepRunsTheDecodedInstruction : Obligations.StepRunsTheDecodedInstruction :=
  ⟨fun _ _ _ _ hw h => step_of_readTrace_run hw h,
    fun _ _ rest hw hi hp => step_of_readTrace_run hw (hp ▸ readTrace_encode hi rest)⟩

/-- Settles O4: by the tag, then by the payload bits that the tag leaves no meaning. -/
theorem malformedTraceWordsAreRefused : Obligations.MalformedTraceWordsAreRefused := by
  intro s h rest hw hp
  refine ⟨fun ht => ?_, fun h1 h8 hz => ?_, fun h1 h7 hz => ?_⟩
  · have hd := decodeEvt16_of_unknown_tag ht
    exact step_of_readTrace_refused hw (hp ▸ readTrace_badTag hd rest)
  · have hd := decodeEvt16_of_bad_payload h1 h8 hz
    exact step_of_readTrace_refused hw (hp ▸ readTrace_badPayload hd rest)
  · obtain ⟨i, hi, hd⟩ := decodeEvt16_of_stimulus h1 h7 hz
    exact ⟨i, hi, step_of_readTrace_run hw (hp ▸ readTrace_event hd rest)⟩

/-- Settles O5: the ten words, decoded by evaluation. -/
theorem specWordsDecodeToTheirInstructions : Obligations.SpecWordsDecodeToTheirInstructions := by
  unfold Obligations.SpecWordsDecodeToTheirInstructions
  decide

end Machine

end Sys2Proof
end

section
/-! The assembler's words (30_encoding.md R98) and what the block's decoder reads in them. -/

namespace Sys2Proof.Machine

/-! ## Operands in their fields -/

theorem fits_of_lt {a bound : Nat} (h : a < bound) (k : Except AsmError CmdWord) : fits a bound k = k := if_pos h

theorem fits_of_le {a bound : Nat} (h : bound ≤ a) (k : Except AsmError CmdWord) :
    fits a bound k = .error (.doesNotFit a) :=
  if_neg (by omega)

theorem toNat_ofNat_of_lt {w a : Nat} (h : a < 2 ^ w) : (BitVec.ofNat w a).toNat = a := by
  rw [BitVec.toNat_ofNat, Nat.mod_eq_of_lt h]

/-- A number that fits the low bits of a field leaves the high bits 0. -/
theorem ofNat_eq_zero_append {v w a : Nat} (h : a < 2 ^ w) : BitVec.ofNat (v + w) a = 0#v ++ BitVec.ofNat w a := by
  apply BitVec.eq_of_toNat_eq
  have hle : 2 ^ w ≤ 2 ^ (v + w) := Nat.pow_le_pow_right (by decide) (by omega)
  rw [BitVec.toNat_append, toNat_ofNat_of_lt h, toNat_ofNat_of_lt (lt_of_lt_of_le h hle), BitVec.toNat_ofNat,
    Nat.zero_mod, Nat.zero_shiftLeft, Nat.zero_or]

/-! ## The words of the lines (R98) -/

theorem assemblesTo_of_word {l : AsmLine} {c : Command} (hwf : c.wf = true) (h : assemble l = .ok c.word) :
    assemblesTo l c :=
  ⟨c.word, h, decodeCmd64_word hwf⟩

theorem assemble_debPeek {a : Nat} (h : a < 8) :
    assemble (.debPeek a) = .ok (Command.debPeek (BitVec.ofNat 3 a)).word := by
  rw [assemble, fits_of_lt h, Command.word, ← ofNat_eq_zero_append (v := 5) h]

theorem assemble_irqEn {a : Nat} (h : a < 256) : assemble (.irqEn a) = .ok (Command.irqEn (BitVec.ofNat 8 a)).word :=
  fits_of_lt h _

theorem assemble_irqClr {a : Nat} (h : a < 256) : assemble (.irqClr a) = .ok (Command.irqClr (BitVec.ofNat 8 a)).word :=
  fits_of_lt h _

theorem assemble_faultInfo {a : Nat} (h : a < 2) :
    assemble (.faultInfo a) = .ok (Command.faultInfo (BitVec.ofNat 1 a)).word := by
  rw [assemble, fits_of_lt h, Command.word, ← ofNat_eq_zero_append (v := 7) h]

theorem assemble_uartTx {p n : Nat} (hp : p < 2 ^ 32) (hn : n < 2 ^ 16) :
    assemble (.uartTx p n) = .ok (Command.uartTx (BitVec.ofNat 32 p) (BitVec.ofNat 16 n)).word := by
  rw [assemble, fits_of_lt hp, fits_of_lt hn, Command.word]

theorem assemble_i2cSetsa {a : Nat} (h : a < 128) :
    assemble (.i2cSetsa a) = .ok (Command.i2cSetsa (BitVec.ofNat 8 (2 * a))).word :=
  fits_of_lt h _

theorem assemble_i2cWrite {c p n : Nat} (hc : c < 256) (hp : p < 2 ^ 32) (hn : n < 2 ^ 16) :
    assemble (.i2cWrite c p n) =
      .ok (Command.i2cWrite (BitVec.ofNat 8 c) (BitVec.ofNat 32 p) (BitVec.ofNat 16 n)).word := by
  rw [assemble, fits_of_lt hc, fits_of_lt hp, fits_of_lt hn, Command.word]

theorem assemble_i2cWriteOne {a : Nat} (h : a < 256) :
    assemble (.i2cWriteOne a) = .ok (Command.i2cWriteOne (BitVec.ofNat 8 a)).word :=
  fits_of_lt h _

/-- The word of IRQ_EN with any mask: the command, or a reserved field (R83, R84). -/
theorem decodeCmd64_irqEn (mask : Byte) :
    decodeCmd64 (Command.irqEn mask).word = if mask &&& 0x60#8 = 0#8 then .cmd (.irqEn mask) else .reserved 0x04#8 := by
  split
  next h => exact decodeCmd64_word (irqMaskOk_iff.mpr h)
  next h => exact decodeCmd64_irqEn_reserved h

/-- The word of IRQ_CLR with any mask: the command, or a reserved field (R83, R84). -/
theorem decodeCmd64_irqClr (mask : Byte) :
    decodeCmd64 (Command.irqClr mask).word =
      if mask &&& 0x60#8 = 0#8 then .cmd (.irqClr mask) else .reserved 0x05#8 := by
  split
  next h => exact decodeCmd64_word (irqMaskOk_iff.mpr h)
  next h => exact decodeCmd64_irqClr_reserved h

/-- The shifted address has R/S 0 (43_i2c.md R232). -/
theorem shifted_address_write (a : Nat) : (BitVec.ofNat 8 (2 * a))[0] = false := by
  rw [BitVec.getElem_eq_testBit_toNat, BitVec.toNat_ofNat, Nat.testBit_zero]
  exact decide_eq_false (by omega)

/-- Settles O53: line by line in the order of the statement, the operands in their fields, or the first that does not
fit. -/
theorem assembledWordsCarryTheirOperands : Obligations.AssembledWordsCarryTheirOperands :=
  ⟨⟨assemblesTo_of_word rfl rfl, assemblesTo_of_word rfl rfl, assemblesTo_of_word rfl rfl, assemblesTo_of_word rfl rfl,
      assemblesTo_of_word rfl rfl⟩,
    fun _ => ⟨fun h => ⟨_, assemblesTo_of_word rfl (assemble_debPeek h), toNat_ofNat_of_lt h⟩,
      fun h => fits_of_le h _⟩,
    fun _ => ⟨fun h => ⟨_, _, assemble_irqEn h, toNat_ofNat_of_lt h, decodeCmd64_irqEn _⟩,
      fun h => fits_of_le h _⟩,
    fun _ => ⟨fun h => ⟨_, _, assemble_irqClr h, toNat_ofNat_of_lt h, decodeCmd64_irqClr _⟩,
      fun h => fits_of_le h _⟩,
    fun _ => ⟨fun h => ⟨_, assemblesTo_of_word rfl (assemble_faultInfo h), toNat_ofNat_of_lt h⟩,
      fun h => fits_of_le h _⟩,
    fun _ _ => ⟨fun hp hn => ⟨_, _, assemblesTo_of_word rfl (assemble_uartTx hp hn), toNat_ofNat_of_lt hp,
        toNat_ofNat_of_lt hn⟩,
      fun hp => fits_of_le hp _, fun hp hn => (fits_of_lt hp _).trans (fits_of_le hn _)⟩,
    fun a => ⟨fun h => ⟨_, assemblesTo_of_word rfl (assemble_i2cSetsa h), toNat_ofNat_of_lt (by omega),
        shifted_address_write a⟩,
      fun h => fits_of_le h _⟩,
    fun _ _ _ => ⟨fun hc hp hn => ⟨_, _, _, assemblesTo_of_word rfl (assemble_i2cWrite hc hp hn),
        toNat_ofNat_of_lt hc, toNat_ofNat_of_lt hp, toNat_ofNat_of_lt hn⟩,
      fun hc => fits_of_le hc _, fun hc hp => (fits_of_lt hc _).trans (fits_of_le hp _),
      fun hc hp hn => (fits_of_lt hc _).trans ((fits_of_lt hp _).trans (fits_of_le hn _))⟩,
    fun _ => ⟨fun h => ⟨_, assemblesTo_of_word rfl (assemble_i2cWriteOne h), toNat_ofNat_of_lt h⟩,
      fun h => fits_of_le h _⟩⟩

end Sys2Proof.Machine
end

section
/-! The expansions of the pseudo-instructions (30_encoding.md R99): what a procedure does on a list of responses. -/

namespace Sys2Proof.Machine

theorem hostFeed_append (p : HostProc) (rs rs' : List Resp) :
    hostFeed p (rs ++ rs') = hostFeed (hostFeed p rs) rs' :=
  List.foldl_append

/-- A procedure that a response leaves where it is stays there however often the response comes. -/
theorem hostFeed_replicate {p : HostProc} {r : Resp} (h : hostNext p r = p) (n : Nat) :
    hostFeed p (List.replicate n r) = p := by
  induction n with
  | zero => rfl
  | succ n ih =>
    show hostFeed (hostNext p r) (List.replicate n r) = p
    rw [h, ih]

/-! ## One response -/

theorem hostNext_btnWait_empty : hostNext .btnWait 0#32 = .btnWait := by decide

theorem hostNext_btnWait_popValid (m : Byte) : hostNext .btnWait (popValid m) = .finished (.mask m) := by
  have hvalid : (popValid m)[8] = true := by
    show (0#23 ++ 1#1 ++ m : BitVec (23 + 1 + 8))[8] = true
    rw [BitVec.getElem_append]
    simp
  have hmask : (popValid m).extractLsb' 0 8 = m := BitVec.extractLsb'_append_eq_right
  rw [hostNext, if_pos hvalid, hmask]

theorem hostNext_uartPoll_busy {r : Resp} (h : r[8] = true) : hostNext .uartPoll r = .uartPoll := if_pos h

theorem hostNext_uartPoll_last {r : Resp} (h : r[8] = false) : hostNext .uartPoll r = .uartClear := by
  simp [hostNext, h]

theorem hostNext_i2cPoll_busy {r : Resp} (h : r[10] = true) : hostNext .i2cPoll r = .i2cPoll := if_pos h

theorem hostNext_i2cPoll_last {r : Resp} (h : r[10] = false) : hostNext .i2cPoll r = .i2cClear (!r[11]) := by
  simp [hostNext, h]

/-! ## Any number of polls -/

theorem hostFeed_btnWait (n : Nat) : hostFeed btnWait (List.replicate n 0#32) = .btnWait :=
  hostFeed_replicate hostNext_btnWait_empty n

theorem hostFeed_uartWrite {busy : Resp} (h : busy[8] = true) (p : Addr) (len : BitVec 16) (n : Nat) :
    hostFeed (uartWrite p len) (0#32 :: List.replicate n busy) = .uartPoll :=
  hostFeed_replicate (hostNext_uartPoll_busy h) n

theorem hostFeed_i2cXfer {busy : Resp} (h : busy[10] = true) (ctrl : Byte) (p : Addr) (len : BitVec 16) (a : BitVec 7)
    (n : Nat) : hostFeed (i2cXfer ctrl p len a) (0#32 :: 0#32 :: List.replicate n busy) = .i2cPoll :=
  hostFeed_replicate (hostNext_i2cPoll_busy h) n

/-- X of I2C_SETSA is the address one place up, with R/S 0 (43_i2c.md R232). -/
theorem address_append_zero (a : BitVec 7) : (a ++ 0#1 : Byte)[0] = false ∧ (a ++ 0#1 : Byte).toNat = 2 * a.toNat := by
  revert a
  decide

/-- Settles O52: each procedure stays at its poll while the unit is busy, and goes on with the first response that ends
the wait. -/
theorem hostProceduresFollowTheirExpansions : Obligations.HostProceduresFollowTheirExpansions := by
  intro n m ctrl p len a busy last
  refine ⟨congrArg hostAction (hostFeed_btnWait n), ?_, fun hb hl => ?_, fun hb hl => ?_, fun b rs => ⟨rfl, rfl, rfl⟩⟩
  · rw [hostFeed_append, hostFeed_btnWait]
    exact hostNext_btnWait_popValid m
  · have hpoll := hostFeed_uartWrite hb p len n
    have hlast := hostNext_uartPoll_last hl
    refine ⟨rfl, congrArg hostAction hpoll, ?_, ?_⟩ <;> rw [hostFeed_append, hpoll]
    · exact congrArg hostAction hlast
    · exact congrArg (hostNext · 0#32) hlast
  · have hpoll := hostFeed_i2cXfer hb ctrl p len a n
    have hlast := hostNext_i2cPoll_last hl
    obtain ⟨hread, hshift⟩ := address_append_zero a
    refine ⟨⟨_, hread, hshift, rfl⟩, rfl, congrArg hostAction hpoll, ?_, ?_⟩ <;> rw [hostFeed_append, hpoll]
    · exact congrArg (hostNext · 0#32) hlast
    · exact congrArg hostAction hlast

end Sys2Proof.Machine
end

section
/-! A byte on a free I2C bus, strobe by strobe (30_encoding.md R94, R95; 43_i2c.md R263). -/

namespace Sys2Proof.Machine

/-! ## Strobes -/

theorem strobes_add (i : Instr) (m n : Nat) (s : State) : strobes i (m + n) s = strobes i n (strobes i m s) := by
  induction m generalizing s with
  | zero => rw [Nat.zero_add, strobes]
  | succ m ih => rw [Nat.succ_add, strobes, strobes, ih]

/-- A strobe of the sequencer that completes no transaction (43_i2c.md R260). -/
theorem after_evtI2cq {s : State} {m : I2cm} (hh : s.hof.halted = false)
    (h : seqStep s.mem (sclLevel s.inp s.i2c) (sdaLevel s.inp s.i2c) s.i2c = .ok (m, false)) :
    after .evtI2cq s = s.setI2c m := by
  have hk : i2cqHandler s = .ok (s.setI2c m) := by rw [i2cqHandler, h]; rfl
  show onStimulus s s (i2cqHandler s) = s.setI2c m
  rw [hk, onStimulus_ok _ _ hh]

/-! ## A bit slot -/

/-- The first of the four strobes that send bit `j` of `byte` is due, and no other device holds the bus. -/
structure BitDue (byte : Byte) (j : Nat) (s : State) : Prop where
  running : s.hof.halted = false
  seq : s.i2c.seq = .xmit
  ph : s.i2c.ph = 0#2
  sh : s.i2c.sh = byte
  bitn : s.i2c.bitn.toNat = j
  scl_low : s.i2c.sclDrv = false
  scl_free : s.inp.sclExt = true
  sda_free : s.inp.sdaExt = true

section
variable {byte : Byte} {j : Nat} {s : State}

theorem BitDue.slotBit (k : BitDue byte j s) : slotBit s.i2c = byte.getLsbD j := by
  rw [Machine.slotBit, k.sh, k.bitn]

/-- The first strobe puts the bit on SDA. -/
theorem BitDue.strobe_one (k : BitDue byte j s) :
    strobes .evtI2cq 1 s = s.setI2c { s.i2c with sdaDrv := byte.getLsbD j, ph := 1#2 } :=
  after_evtI2cq k.running (by simp [seqStep, xmitStep, k.seq, k.ph, k.slotBit])

/-- The second strobe releases SCL. -/
theorem BitDue.strobe_two (k : BitDue byte j s) :
    strobes .evtI2cq 2 s = s.setI2c { s.i2c with sdaDrv := byte.getLsbD j, sclDrv := true, ph := 2#2 } := by
  rw [strobes_add _ 1 1, k.strobe_one]
  exact after_evtI2cq k.running (by simp [seqStep, xmitStep, k.seq])

/-- The third strobe samples: SCL is high, and SDA is as driven, so the bus is kept. -/
theorem BitDue.strobe_three (k : BitDue byte j s) :
    strobes .evtI2cq 3 s = s.setI2c { s.i2c with sdaDrv := byte.getLsbD j, sclDrv := true, ph := 3#2 } := by
  rw [strobes_add _ 2 1, k.strobe_two]
  exact after_evtI2cq k.running
    (by simp [seqStep, xmitStep, k.seq, sclLevel, sdaLevel, k.scl_free, k.sda_free, Machine.slotBit, k.sh, k.bitn])

/-- The fourth strobe drives SCL low and goes on to the next bit. -/
theorem BitDue.strobe_four (k : BitDue byte (j + 1) s) :
    strobes .evtI2cq 4 s =
      s.setI2c
        { s.i2c with sdaDrv := byte.getLsbD (j + 1), sclDrv := false, ph := 0#2, bitn := s.i2c.bitn - 1#3 } := by
  have hb : s.i2c.bitn ≠ 0#3 := fun h => by simpa [h] using k.bitn
  rw [strobes_add _ 3 1, k.strobe_three]
  exact after_evtI2cq k.running (by simp [seqStep, xmitStep, k.seq, hb])

/-- After the last bit the fourth strobe goes on to the ACK slot. -/
theorem BitDue.strobe_four_last (k : BitDue byte 0 s) :
    strobes .evtI2cq 4 s =
      s.setI2c { s.i2c with sdaDrv := byte.getLsbD 0, sclDrv := false, ph := 0#2, seq := .ack } := by
  have hb : s.i2c.bitn = 0#3 := BitVec.eq_of_toNat_eq k.bitn
  rw [strobes_add _ 3 1, k.strobe_three]
  exact after_evtI2cq k.running (by simp [seqStep, xmitStep, k.seq, hb])

/-- The lines in each strobe of the slot (R94, R95). -/
theorem BitDue.lines (k : BitDue byte j s) {q : Nat} (h1 : 1 ≤ q) (h4 : q ≤ 4) :
    (strobes .evtI2cq q s).i2c.sdaDrv = byte.getLsbD j ∧
      ((strobes .evtI2cq q s).i2c.sclDrv = true ↔ q = 2 ∨ q = 3) := by
  obtain rfl | rfl | rfl | rfl : q = 1 ∨ q = 2 ∨ q = 3 ∨ q = 4 := by omega
  · rw [k.strobe_one]
    simp [k.scl_low]
  · rw [k.strobe_two]
    simp
  · rw [k.strobe_three]
    simp
  · cases j with
    | zero =>
      rw [k.strobe_four_last]
      simp
    | succ j =>
      rw [k.strobe_four]
      simp

/-- After its four strobes the next bit is due. -/
theorem BitDue.next (k : BitDue byte (j + 1) s) : BitDue byte j (strobes .evtI2cq 4 s) := by
  have hb : (s.i2c.bitn - 1#3).toNat = j := by
    have hj := k.bitn
    bv_omega
  rw [k.strobe_four]
  exact ⟨k.running, k.seq, rfl, k.sh, hb, rfl, k.scl_free, k.sda_free⟩

/-- From the first slot of a byte on, slot `b` sends bit `7 - b`. -/
theorem BitDue.slot (k : BitDue byte 7 s) {b : Nat} (hb : b ≤ 7) :
    BitDue byte (7 - b) (strobes .evtI2cq (4 * b) s) := by
  induction b with
  | zero => exact k
  | succ b ih =>
    have due := ih (by omega)
    rw [show 7 - b = 7 - (b + 1) + 1 by omega] at due
    rw [Nat.mul_succ, strobes_add]
    exact due.next

end

/-- Settles O45: the byte's first slot is due, so slot `b` is due after `4 * b` strobes; the last one ends in the ACK
slot. -/
theorem i2cByteOnTheWire : Obligations.I2cByteOnTheWire := by
  intro s k hh hs hp hb hscl hsda
  have low : s.i2c.sclDrv = false := by
    have slot := k.i2c.slot_scl (.inl hs)
    simpa [hp] using slot
  have first : BitDue s.i2c.sh 7 s := ⟨hh, hs, hp, rfl, by rw [hb]; rfl, low, hscl, hsda⟩
  refine ⟨fun b q hb7 h1 h4 => ?_, ?_⟩
  · rw [strobes_add]
    exact (first.slot hb7).lines h1 h4
  · rw [strobes_add _ (4 * 7) 4, (first.slot le_rfl).strobe_four_last]
    exact ⟨rfl, rfl⟩

end Sys2Proof.Machine
end

section
/-! When the block moves SDA (30_encoding.md R94): slot by slot, then over the whole instruction set. -/

namespace Sys2Proof.Machine

/-- A move of the drives that R94 allows: SDA keeps its drive, or moves under a low SCL, or makes a START or a STOP. -/
def SdaMove (m x : I2cm) : Prop :=
  x.sdaDrv = m.sdaDrv ∨
  (m.sclDrv = false ∧ x.sclDrv = false) ∨
  (m.seq = .start ∧ m.sdaDrv = true ∧ x.sdaDrv = false ∧ m.sclDrv = true ∧ x.sclDrv = true) ∨
  (m.seq = .stop ∧ m.sdaDrv = false ∧ x.sdaDrv = true ∧ m.sclDrv = true ∧ x.sclDrv = true)

/-! ## The sequencer -/

section
variable {mem : Memory} {scl sda done : Bool} {m x : I2cm}

/-- MDONE drives no line (43_i2c.md R250). -/
theorem mdone_lines (h : mdone mem m = .ok (x, done)) : x.sdaDrv = m.sdaDrv ∧ x.sclDrv = m.sclDrv := by
  obtain ⟨-, e⟩ | ⟨-, -, b, -, e⟩ | ⟨-, -, -, e⟩ := mdone_cases mem m <;> rw [e] at h <;> cases h <;> exact ⟨rfl, rfl⟩

theorem ackEnd_sdaDrv (h : ackEnd mem m = .ok (x, done)) : x.sdaDrv = m.sdaDrv := by
  obtain ⟨-, e⟩ | e | ⟨-, -, e⟩ := ackEnd_cases mem m <;> rw [e] at h
  · cases h; rfl
  · cases h; rfl
  · exact (mdone_lines h).1

theorem nack_sdaDrv (m : I2cm) : (nack m).sdaDrv = m.sdaDrv := by
  obtain e | e := nack_cases m <;> rw [e]

/-- A slot's phase 0 stands under a low clock. -/
theorem I2cInv.slot_low (k : I2cInv m) (hs : m.seq = .xmit ∨ m.seq = .ack ∨ m.seq = .stop) (hp : m.ph = 0#2) :
    m.sclDrv = false := by
  have hscl := k.slot_scl hs
  simpa [hp] using hscl

/-- START: SDA falls in phase 0, SCL released. -/
theorem startStep_sdaMove (k : I2cInv m) (hs : m.seq = .start) : SdaMove m (startStep m) := by
  obtain ⟨hscl, hsda⟩ := k.start_lines hs
  obtain ⟨hp, e⟩ | ⟨-, e⟩ | ⟨-, e⟩ | ⟨-, e⟩ := startStep_cases m <;> rw [e]
  · exact .inr (.inr (.inl ⟨hs, hsda.mpr hp, rfl, hscl, hscl⟩))
  · exact .inl rfl
  · exact .inl rfl
  · exact .inl rfl

/-- XMIT: SDA moves in phase 0; a lost arbitration found it released already. -/
theorem xmitStep_sdaMove (k : I2cInv m) (hs : m.seq = .xmit) (h : xmitStep mem scl sda m = .ok (x, done)) :
    SdaMove m x := by
  obtain ⟨hp, e⟩ | ⟨-, e⟩ | ⟨-, -, e⟩ | ⟨hp, -, hlost, e⟩ | ⟨-, -, -, e⟩ | ⟨-, -, e⟩ | ⟨-, -, e⟩ :=
    xmitStep_cases mem scl sda m <;> rw [e] at h
  · cases h
    have low := k.slot_low (.inl hs) hp
    exact .inr (.inl ⟨low, low⟩)
  · cases h; exact .inl rfl
  · cases h; exact .inl rfl
  · obtain ⟨hx, -⟩ := mdone_lines h
    obtain ⟨hbit, -⟩ := Bool.and_eq_true_iff.mp hlost
    have released : m.sdaDrv = true := (k.xmit_sda hs (by simp [hp])).trans hbit
    exact .inl (hx.trans released.symm)
  · cases h; exact .inl rfl
  · cases h; exact .inl rfl
  · cases h; exact .inl rfl

/-- ACK: SDA is released in phase 0. -/
theorem ackStep_sdaMove (k : I2cInv m) (hs : m.seq = .ack) (h : ackStep mem scl sda m = .ok (x, done)) :
    SdaMove m x := by
  obtain ⟨hp, e⟩ | ⟨-, e⟩ | ⟨-, -, e⟩ | ⟨-, -, -, e⟩ | ⟨-, -, -, e⟩ | ⟨-, e⟩ := ackStep_cases mem scl sda m <;>
    rw [e] at h
  · cases h
    have low := k.slot_low (.inr (.inl hs)) hp
    exact .inr (.inl ⟨low, low⟩)
  · cases h; exact .inl rfl
  · cases h; exact .inl rfl
  · cases h; exact .inl (nack_sdaDrv m)
  · cases h; exact .inl rfl
  · have hx := ackEnd_sdaDrv h
    exact .inl hx

/-- STOP: SDA falls in phase 0 under a low clock and rises in phase 3 under a released one. -/
theorem stopStep_sdaMove (k : I2cInv m) (hs : m.seq = .stop) (h : stopStep mem scl m = .ok (x, done)) :
    SdaMove m x := by
  obtain ⟨hp, e⟩ | ⟨-, e⟩ | ⟨-, -, e⟩ | ⟨-, -, e⟩ | ⟨hp, e⟩ := stopStep_cases mem scl m <;> rw [e] at h
  · cases h
    have low := k.slot_low (.inr (.inr hs)) hp
    exact .inr (.inl ⟨low, low⟩)
  · cases h; exact .inl rfl
  · cases h; exact .inl rfl
  · cases h; exact .inl rfl
  · obtain ⟨hxsda, hxscl⟩ := mdone_lines h
    have high : m.sclDrv = true := (k.slot_scl (.inr (.inr hs))).mpr (by simp [hp])
    exact .inr (.inr (.inr ⟨hs, k.stop_sda hs (by simp [hp]), hxsda, high, hxscl.trans high⟩))

theorem waitbusStep_sdaDrv (scl sda : Bool) (m : I2cm) : (waitbusStep scl sda m).sdaDrv = m.sdaDrv := by
  unfold waitbusStep
  split <;> rfl

theorem seqStep_sdaMove (k : I2cInv m) (h : seqStep mem scl sda m = .ok (x, done)) : SdaMove m x := by
  unfold seqStep at h
  cases hs : m.seq <;> simp only [hs] at h
  case idle => cases h; exact .inl rfl
  case waitbus => cases h; exact .inl (waitbusStep_sdaDrv scl sda m)
  case start => cases h; exact startStep_sdaMove k hs
  case xmit => exact xmitStep_sdaMove k hs h
  case ack => exact ackStep_sdaMove k hs h
  case hold => cases h; exact .inl rfl
  case stop => exact stopStep_sdaMove k hs h

end

/-! ## The commands -/

section
variable {s t : State}

theorem onCommand_sdaDrv {h : Except FaultRecord State} (hok : ∀ t, h = .ok t → t.i2c.sdaDrv = s.i2c.sdaDrv) :
    (onCommand s h).i2c.sdaDrv = s.i2c.sdaDrv := by
  obtain ⟨-, e⟩ | ⟨-, t, ht, e⟩ | ⟨-, f, -, e⟩ := onCommand_cases s h <;> rw [e]
  · rfl
  · exact hok t ht
  · rfl

theorem i2cStart_sdaDrv (cur stop : Addr) (byte : Byte) (c : McsCommand) (s : State) :
    (i2cStart cur stop byte c s).i2c.sdaDrv = s.i2c.sdaDrv := by
  cases c <;> rfl

/-- A command drives no bus line: it only hands the sequencer its work (43_i2c.md R251). -/
theorem runCommand_sdaDrv {c : Command} (h : runCommand c s = .next t) : t.i2c.sdaDrv = s.i2c.sdaDrv := by
  obtain hsame | hwrites := (runCommand_onlyWrites h).i2c
  · rw [hsame]
  · cases c <;> simp [Command.toInstr, writtenParts] at hwrites <;> obtain rfl := Host.Outcome.next.inj h
    case i2cSetsa msa =>
      refine onCommand_sdaDrv fun t ht => ?_
      obtain ⟨-, -, rfl⟩ := i2cSetsaHandler_ok ht
      rfl
    case i2cWrite ctrl p n =>
      refine onCommand_sdaDrv fun t ht => ?_
      obtain ⟨-, -, rfl⟩ := i2cWriteHandler_ok ht
      exact i2cStart_sdaDrv ..
    case i2cWriteOne byte =>
      refine onCommand_sdaDrv fun t ht => ?_
      obtain ⟨-, rfl⟩ := i2cWriteOneHandler_ok ht
      exact i2cStart_sdaDrv ..

theorem exec_evtCmd_sdaDrv {w : CmdWord} (h : exec (.evtCmd w) s = .next t) : t.i2c.sdaDrv = s.i2c.sdaDrv := by
  obtain ⟨f, e⟩ | ⟨c, -, e⟩ := exec_evtCmd_cases w s <;> rw [e] at h
  · obtain rfl := Host.Outcome.next.inj h
    exact onCommand_sdaDrv fun _ ht => (nomatch ht)
  · exact runCommand_sdaDrv h

theorem exec_evtI2cq_sdaMove (k : I2cInv s.i2c) (h : exec .evtI2cq s = .next t) : SdaMove s.i2c t.i2c := by
  obtain rfl := Host.Outcome.next.inj h
  obtain ⟨-, e⟩ | ⟨-, t, ht, e⟩ | ⟨-, f, -, e⟩ := onStimulus_cases s s (i2cqHandler s) <;> rw [e]
  · exact .inl rfl
  · obtain ⟨x, done, hx, rfl⟩ := i2cqHandler_ok ht
    exact seqStep_sdaMove k hx
  · exact .inl rfl

end

/-- Settles O46: of the instructions that write the I2C master only I2CQ moves SDA, and RESET is excepted. -/
theorem sdaMovesOnlyUnderLowScl : Obligations.SdaMovesOnlyUnderLowScl := by
  intro i s t k h hr
  show SdaMove s.i2c t.i2c
  obtain hsame | hwrites := (exec_onlyWrites h).i2c
  · exact .inl (by rw [hsame])
  · obtain rfl | ⟨m, rfl⟩ | ⟨c, p, n, rfl⟩ | ⟨b, rfl⟩ | rfl | ⟨w, rfl⟩ := writers_of_i2c hwrites
    · exact exec_evtI2cq_sdaMove k.i2c h
    · exact .inl (runCommand_sdaDrv (c := .i2cSetsa m) h)
    · exact .inl (runCommand_sdaDrv (c := .i2cWrite c p n) h)
    · exact .inl (runCommand_sdaDrv (c := .i2cWriteOne b) h)
    · exact absurd rfl hr
    · exact .inl (exec_evtCmd_sdaDrv h)

end Sys2Proof.Machine
end

section
/-! The command port (40_handoff.md R111): CMD(w) by what the decoder answers for w. -/

namespace Sys2Proof.Machine

theorem exec_evtCmd_of_illegal {w : CmdWord} {op : Byte} (h : decodeCmd64 w = .illegal op) (s : State) :
    exec (.evtCmd w) s = .next (onCommand s (.error { code := .illegalOpcode, info := w })) := by
  show execEvtCmd w s = _
  rw [execEvtCmd, h]

theorem exec_evtCmd_of_cmd {w : CmdWord} {c : Command} (h : decodeCmd64 w = .cmd c) (s : State) :
    exec (.evtCmd w) s = exec c.toInstr s := by
  show execEvtCmd w s = _
  rw [execEvtCmd, h, exec_toInstr]

/-- A command that raises a fault on a block that runs (60_exceptions.md R303). -/
theorem commandFaults_onCommand_error {s : State} (f : FaultRecord) (hh : s.hof.halted = false) :
    commandFaults (.next (onCommand s (.error f))) s f.code.bits f.info :=
  ⟨f :: s.faultLog, by rw [onCommand_error f hh]; rfl⟩

theorem evtCmd_faults_of_illegal {s : State} {w : CmdWord} {op : Byte} (hh : s.hof.halted = false)
    (h : decodeCmd64 w = .illegal op) : commandFaults (exec (.evtCmd w) s) s 0x01#8 w := by
  rw [exec_evtCmd_of_illegal h]
  exact commandFaults_onCommand_error _ hh

theorem evtCmd_faults_of_reserved {s : State} {w : CmdWord} {op : Byte} (hh : s.hof.halted = false)
    (h : decodeCmd64 w = .reserved op) : commandFaults (exec (.evtCmd w) s) s 0x02#8 w := by
  rw [exec_evtCmd_of_reserved h]
  exact commandFaults_onCommand_error _ hh

/-- The first fault stays the one recorded (R111). -/
theorem exec_evtCmd_of_halted {s : State} {w : CmdWord} (hh : s.hof.halted = true)
    (h : ∀ c, decodeCmd64 w ≠ .cmd c) : exec (.evtCmd w) s = .next (s.respond respHalted) := by
  obtain ⟨f, e⟩ | ⟨c, hc, -⟩ := exec_evtCmd_cases w s
  · rw [e, onCommand_halted _ hh]
  · exact absurd hc (h c)

/-- Settles O15: the decoder's three answers on a block that runs, and its faults behind the halt gate. -/
theorem commandPortDispatches : Obligations.CommandPortDispatches := by
  refine ⟨fun s w hh hrow => ?_, fun s w m hh hrow hne => ?_, fun s w hh hcmd => exec_evtCmd_of_halted hh hcmd,
    fun s c hwf => ?_⟩
  · obtain ⟨hillegal, -⟩ := opcodeCheckedBeforeReservedFields w
    exact evtCmd_faults_of_illegal hh (hillegal hrow)
  · obtain ⟨-, hreserved, -⟩ := opcodeCheckedBeforeReservedFields w
    exact evtCmd_faults_of_reserved hh (hreserved m hrow hne)
  · obtain ⟨t, ht⟩ := exec_next c.toInstr s
    exact ⟨t, (exec_evtCmd_of_cmd (decodeCmd64_word hwf) s).trans ht, ht⟩

end Sys2Proof.Machine
end

section
/-! The hand-off commands (40_handoff.md R112 to R118): their words, and the fields of the words they answer. -/

namespace Sys2Proof

/-! ## Encodings -/

/-- A command decodes from its own word only, if that word is legal (30_encoding.md R84). -/
theorem decodeCmd64_eq_cmd_iff_and {c : Command} {legal : Prop} (hwf : c.wf = true ↔ legal) (w : CmdWord) :
    decodeCmd64 w = .cmd c ↔ legal ∧ w = c.word := by
  rw [decodeCmd64_eq_cmd_iff, hwf, eq_comm (a := w)]

theorem decodeCmd64_eq_cmd_iff_eq {c : Command} (hwf : c.wf = true) {v : CmdWord} (hv : c.word = v) (w : CmdWord) :
    decodeCmd64 w = .cmd c ↔ w = v := by
  rw [decodeCmd64_eq_cmd_iff_and (iff_true_intro hwf), hv, true_and]

/-- X[7:1] are the bits that the row of FAULT_INFO checks (30_encoding.md R83). -/
theorem extractLsb'_eq_zero_of_and_eq_zero {x : Byte} (h : x &&& 0xFE#8 = 0#8) : x.extractLsb' 1 7 = 0#7 := by
  revert x
  decide

theorem decodeCmd64_faultInfo_reserved {w : CmdWord} (hop : cmdOp w = 0x06#8) (hx : w.extractLsb' 49 7 ≠ 0#7) :
    decodeCmd64 w = .reserved 0x06#8 := by
  rw [← packCmd_row_fields (r := faultInfoRow) hop.symm]
  refine decodeCmd64_of_not_clear faultInfoRow_mem fun hc => hx ?_
  obtain ⟨hz, -, -⟩ := xRow_clear_iff.mp hc
  have hfield : (cmdX w).extractLsb' 1 7 = w.extractLsb' 49 7 := by
    ext i hi
    rw [cmdX, BitVec.getElem_extractLsb', BitVec.getLsbD_extractLsb', BitVec.getElem_extractLsb', ← Nat.add_assoc,
      decide_eq_true (by omega), Bool.true_and]
  rw [← hfield, extractLsb'_eq_zero_of_and_eq_zero hz]

/-! ## Fields of a response -/

/-- A bit of an 8-bit field is a bit of the response. -/
theorem getElem_of_field {r : Resp} {v : Byte} {k : Nat} (h : r.extractLsb' k 8 = v) {i : Nat} (hi : i < 8)
    (hk : k + i < 32) : r[k + i] = v[i] := by
  rw [← h, BitVec.getElem_extractLsb', BitVec.getLsbD_eq_getElem hk]

theorem bne_zero_iff_toNat_pos {n : Nat} {x : BitVec n} : (x != 0#n) = true ↔ 0 < x.toNat := by
  rw [bne_iff_ne, BitVec.toNat_pos, BitVec.pos_iff_ne_zero]

namespace Machine

/-- The pending vector (40_handoff.md R114), bit by bit. -/
theorem getElem_irqPend (s : State) :
    (irqPend s)[0] = (s.deb.btnq.count != 0#4) ∧ (irqPend s)[1] = s.hof.irqLat[1] ∧
    (irqPend s)[2] = (s.rx.rxq.count != 0#4) ∧ (irqPend s)[3] = s.hof.irqLat[3] ∧
    (irqPend s)[4] = s.hof.irqLat[4] ∧ (irqPend s)[5] = false ∧ (irqPend s)[6] = false ∧
    (irqPend s)[7] = s.hof.halted := by
  unfold irqPend
  refine ⟨?_, ?_, ?_, ?_, ?_, ?_, ?_, ?_⟩
  all_goals
    change BitVec.getLsbD (w := 1 + 2 + 1 + 1 + 1 + 1 + 1) _ _ = _
    simp only [BitVec.getLsbD_append, BitVec.getLsbD_ofBool]
    rfl

theorem irqLine_iff {s : State} : irqLine s = true ↔ irqPend s &&& s.hof.irqEn ≠ 0#8 := bne_iff_ne

/-- The fields of the status word (R113) of more than one bit. -/
theorem statusWord_fields (s : State) :
    (statusWord s).extractLsb' 0 4 = s.deb.btnq.count ∧ (statusWord s).extractLsb' 4 4 = s.rx.rxq.count ∧
    (statusWord s).extractLsb' 16 8 = s.hof.faultCode ∧ (statusWord s).extractLsb' 24 8 = irqPend s := by
  unfold statusWord
  refine ⟨?_, ?_, ?_, ?_⟩
  all_goals
    change BitVec.extractLsb' (n := 8 + 8 + 1 + 1 + 1 + 1 + 1 + 1 + 1 + 1 + 4 + 4) _ _ _ = _
    repeat rw [BitVec.extractLsb'_append_eq_of_le (by decide)]
  · exact BitVec.extractLsb'_append_eq_right
  · exact BitVec.extractLsb'_append_eq_right
  · exact BitVec.extractLsb'_append_eq_right
  · exact BitVec.extractLsb'_eq_self

/-- The one-bit fields of the status word (R113). -/
theorem getElem_statusWord (s : State) :
    (statusWord s)[8] = s.tx.txBusy ∧ (statusWord s)[9] = (s.tx.thrFull || s.tx.txAct) ∧
    (statusWord s)[10] = s.i2c.i2cBusy ∧ (statusWord s)[11] = s.i2c.i2cRes ∧ (statusWord s)[12] = s.rx.fe ∧
    (statusWord s)[13] = s.rx.oe ∧ (statusWord s)[14] = !parked s.deb ∧ (statusWord s)[15] = s.hof.halted := by
  unfold statusWord
  refine ⟨?_, ?_, ?_, ?_, ?_, ?_, ?_, ?_⟩
  all_goals
    change BitVec.getLsbD (w := 8 + 8 + 1 + 1 + 1 + 1 + 1 + 1 + 1 + 1 + 4 + 4) _ _ = _
    simp only [BitVec.getLsbD_append, BitVec.getLsbD_ofBool]
    rfl

/-- The engine is awake while some lane counts (10_state.md R27). -/
theorem not_parked_iff {d : Deb} : (!parked d) = true ↔ ∃ i : Fin 8, d.rem[i] ≠ 0#8 := by
  rw [Bool.not_eq_true', ← Bool.not_eq_true, parked_iff, not_forall]
  rfl

theorem mcsBusy_iff {q : SeqState} : mcsBusy q = true ↔ q ∈ [.waitbus, .start, .xmit, .ack, .stop] := by
  cases q <;> decide

theorem mcsBusBusy_iff {q : SeqState} : mcsBusBusy q = true ↔ q ∈ [.start, .xmit, .ack, .hold, .stop] := by
  cases q <;> decide

/-- The MCS image (43_i2c.md R270), bit by bit. -/
theorem getElem_mcsImage (m : I2cm) :
    (mcsImage m)[0] = mcsBusy m.seq ∧ (mcsImage m)[1] = m.err ∧ (mcsImage m)[2] = m.adrack ∧
    (mcsImage m)[3] = m.datack ∧ (mcsImage m)[4] = m.arblst ∧ (mcsImage m)[5] = (m.seq == .idle) ∧
    (mcsImage m)[6] = mcsBusBusy m.seq ∧ (mcsImage m)[7] = false := by
  unfold mcsImage
  refine ⟨?_, ?_, ?_, ?_, ?_, ?_, ?_, ?_⟩
  all_goals
    change BitVec.getLsbD (w := 1 + 1 + 1 + 1 + 1 + 1 + 1 + 1) _ _ = _
    simp only [BitVec.getLsbD_append, BitVec.getLsbD_ofBool]
    rfl

/-- The fields of the extended status word (40_handoff.md R115). -/
theorem xstatusWord_fields (s : State) :
    (xstatusWord s).extractLsb' 0 8 = mcsImage s.i2c ∧ (xstatusWord s).extractLsb' 8 8 = s.i2c.msa ∧
    (xstatusWord s).extractLsb' 16 8 = s.hof.irqEn ∧ (xstatusWord s).extractLsb' 24 8 = 0#8 := by
  unfold xstatusWord
  refine ⟨?_, ?_, ?_, ?_⟩
  all_goals
    change BitVec.extractLsb' (n := 8 + 8 + 8 + 8) _ _ _ = _
    repeat rw [BitVec.extractLsb'_append_eq_of_le (by decide)]
  · exact BitVec.extractLsb'_append_eq_right
  · exact BitVec.extractLsb'_append_eq_right
  · exact BitVec.extractLsb'_append_eq_right
  · exact BitVec.extractLsb'_eq_self

/-- The two halves are the whole of `fault_info` (R118). -/
theorem faultInfoWord_halves (s : State) :
    s.hof.faultInfo.toNat = (faultInfoWord s 1#1).toNat * 2 ^ 32 + (faultInfoWord s 0#1).toNat := by
  have hlow : faultInfoWord s 0#1 = s.hof.faultInfo.extractLsb' 0 32 := rfl
  have hhigh : faultInfoWord s 1#1 = s.hof.faultInfo.extractLsb' 32 32 := rfl
  have hlt := s.hof.faultInfo.isLt
  rw [hlow, hhigh, BitVec.extractLsb'_toNat, BitVec.extractLsb'_toNat, Nat.shiftRight_zero, Nat.shiftRight_eq_div_pow]
  omega

/-- With no fault recorded FAULT_INFO returns 0 (R118). -/
theorem faultInfoWord_of_clear {s : State} (h : s.hof.faultInfo = 0#64) (half : BitVec 1) :
    faultInfoWord s half = 0#32 := by
  unfold faultInfoWord
  split <;> rw [h] <;> rfl

/-! ## Writes -/

theorem exec_irqEn_of_maskOk {s : State} {mask : Byte} (hh : s.hof.halted = false) (hm : mask &&& 0x60#8 = 0#8) :
    exec (.irqEn mask) s = .next ((s.setHof { s.hof with irqEn := mask }).respond 0#32) := by
  show Host.Outcome.next (onCommand s (irqEnHandler mask s)) = _
  rw [irqEnHandler, if_pos (irqMaskOk_iff.mpr hm), onCommand_ok _ hh]

theorem exec_irqClr_of_maskOk {s : State} {mask : Byte} (hh : s.hof.halted = false) (hm : mask &&& 0x60#8 = 0#8) :
    exec (.irqClr mask) s = .next ((irqClear mask s).respond 0#32) := by
  show Host.Outcome.next (onCommand s (irqClrHandler mask s)) = _
  rw [irqClrHandler, if_pos (irqMaskOk_iff.mpr hm), onCommand_ok _ hh]

/-- IRQ_CLR as one write of the latches and one of the flags (R117). -/
theorem irqClear_eq (mask : Byte) (s : State) :
    irqClear mask s = (s.setHof (unlatch s.hof (mask &&& latAll))).setRx
      { s.rx with fe := s.rx.fe && !mask[4], oe := s.rx.oe && !mask[4] } := by
  unfold irqClear
  cases mask[4] <;> simp [State.setHof, State.setRx]

/-- The latched causes are bits 1, 3 and 4 (R117). -/
theorem getElem_latAll (j : Fin 8) : latAll[j] = (j == 1 || j == 3 || j == 4) := by
  revert j
  decide

theorem getElem_unlatch_latAll (h : Hof) (mask : Byte) (j : Fin 8) :
    (unlatch h (mask &&& latAll)).irqLat[j] = (h.irqLat[j] && !(mask[j] && (j == 1 || j == 3 || j == 4))) := by
  rw [← getElem_latAll j]
  exact (getElem_unlatch h (mask &&& latAll) j j.isLt).trans (by rw [BitVec.getElem_and]; rfl)

/-! ## The commands -/

/-- Settles O16: the word of NOP, and its gate halted and not. -/
theorem nopOnlyResponds : Obligations.NopOnlyResponds := by
  refine ⟨decodeCmd64_eq_cmd_iff_eq rfl (by decide), fun s => ?_⟩
  show Host.Outcome.next (onCommand s (.ok (s.respond 0#32))) = _
  cases hh : s.hof.halted with
  | false => rw [onCommand_ok _ hh]; rfl
  | true => rw [onCommand_halted _ hh]; rfl

/-- Settles O17: the fields of the status word, its top byte read through the pending vector. -/
theorem statusWordFields : Obligations.StatusWordFields := by
  refine ⟨decodeCmd64_eq_cmd_iff_eq rfl (by decide), fun s => ⟨statusWord s, rfl, ?_⟩⟩
  obtain ⟨hbtn, hrx, hcode, hpend⟩ := statusWord_fields s
  obtain ⟨hbusy, hact, hi2c, hres, hfe, hoe, hdeb, hhalt⟩ := getElem_statusWord s
  have pendBit {i : Nat} (hi : i < 8) : (statusWord s)[24 + i] = (irqPend s)[i] :=
    getElem_of_field hpend hi (by omega)
  obtain ⟨p0, p1, p2, p3, p4, p5, p6, p7⟩ := getElem_irqPend s
  refine ⟨hbtn, hrx, hbusy, hact, hi2c, hres, hfe, hoe, by rw [hdeb, not_parked_iff], hhalt, hcode, ?_,
    (pendBit (by decide)).trans p1, ?_, (pendBit (by decide)).trans p3, (pendBit (by decide)).trans p4,
    (pendBit (by decide)).trans p5, (pendBit (by decide)).trans p6, (pendBit (by decide)).trans p7,
    by rw [hpend, irqLine_iff]⟩
  · rw [show (statusWord s)[24] = _ from pendBit (i := 0) (by decide), p0, bne_zero_iff_toNat_pos]
  · rw [show (statusWord s)[26] = _ from pendBit (i := 2) (by decide), p2, bne_zero_iff_toNat_pos]

/-- Settles O18: the fields of the extended status word, its low byte read through the MCS image. -/
theorem xstatusWordFields : Obligations.XstatusWordFields := by
  refine ⟨decodeCmd64_eq_cmd_iff_eq rfl (by decide), fun s => ⟨xstatusWord s, rfl, ?_⟩⟩
  obtain ⟨hmcs, hmsa, hen, hzero⟩ := xstatusWord_fields s
  have mcsBit {i : Nat} (hi : i < 8) : (xstatusWord s)[i] = (mcsImage s.i2c)[i] := by
    simpa using getElem_of_field hmcs hi (by omega)
  obtain ⟨m0, m1, m2, m3, m4, m5, m6, m7⟩ := getElem_mcsImage s.i2c
  refine ⟨?_, (mcsBit (by decide)).trans m1, (mcsBit (by decide)).trans m2, (mcsBit (by decide)).trans m3,
    (mcsBit (by decide)).trans m4, ?_, ?_, (mcsBit (by decide)).trans m7, hmsa, hen, hzero⟩
  · rw [mcsBit (by decide), m0, mcsBusy_iff]
  · rw [mcsBit (by decide), m5, beq_iff_eq]
  · rw [mcsBit (by decide), m6, mcsBusBusy_iff]

/-- Settles O19: the word, the accepted mask, and the refused one. -/
theorem irqEnWritesTheEnables : Obligations.IrqEnWritesTheEnables := by
  refine ⟨fun w mask => decodeCmd64_eq_cmd_iff_and (c := .irqEn mask) irqMaskOk_iff w,
    fun s mask hh => ⟨fun hm => ?_, fun hm => ?_⟩⟩
  · exact ⟨_, exec_irqEn_of_maskOk hh hm, rfl, irqLine_iff⟩
  · exact evtCmd_faults_of_reserved hh (decodeCmd64_irqEn_reserved hm)

/-- Settles O20: the word, the accepted mask, and the refused one. -/
theorem irqClrIsWriteOneToClear : Obligations.IrqClrIsWriteOneToClear := by
  refine ⟨fun w mask => decodeCmd64_eq_cmd_iff_and (c := .irqClr mask) irqMaskOk_iff w,
    fun s mask hh => ⟨fun hm => ?_, fun hm => ?_⟩⟩
  · refine ⟨(unlatch s.hof (mask &&& latAll)).irqLat, ?_, getElem_unlatch_latAll s.hof mask⟩
    rw [exec_irqClr_of_maskOk hh hm, irqClear_eq]
    rfl
  · exact evtCmd_faults_of_reserved hh (decodeCmd64_irqClr_reserved hm)

/-- Settles O22: the words, the checked bits of X, and the two halves. -/
theorem faultInfoAnswersOneHalf : Obligations.FaultInfoAnswersOneHalf := by
  refine ⟨fun w half => decodeCmd64_eq_cmd_iff_eq rfl rfl w,
    fun s w hh hop hx => evtCmd_faults_of_reserved hh (decodeCmd64_faultInfo_reserved hop hx),
    fun s => ⟨faultInfoWord s 0#1, faultInfoWord s 1#1, rfl, rfl, faultInfoWord_halves s, fun hinv hh => ?_⟩⟩
  obtain ⟨-, hinfo⟩ := hinv.clear hh
  exact ⟨faultInfoWord_of_clear hinfo _, faultInfoWord_of_clear hinfo _⟩

end Machine

end Sys2Proof
end

section
/-! The queues as the pop commands see them (10_state.md R28; 30_encoding.md R85). -/

namespace Sys2Proof.Machine

theorem popValid_eq_or (m : Byte) : popValid m = 0x100#32 ||| m.setWidth 32 := by
  revert m
  decide

theorem popResp_of_empty {q : Queue} (h : q.count = 0#4) : popResp q = 0#32 := if_pos h

theorem popRest_of_empty {cap : Nat} {q : Queue} (h : q.count = 0#4) : popRest cap q = q := if_pos h

/-- A pop of a queue that holds something takes the first of the delivery order. -/
theorem pop_of_queueList_cons {cap : Nat} {q : Queue} (k : QueueInv cap q) (hcap : cap ≤ 15) {m : Byte}
    {ms : List Byte} (h : queueList cap q = m :: ms) :
    popResp q = popValid m ∧ queueList cap (popRest cap q) = ms ∧
      (popRest cap q).count.toNat + 1 = q.count.toNat := by
  have hc : q.count ≠ 0#4 := by
    rintro hc
    simp [queueList, hc] at h
  obtain ⟨hcount, -, hlist⟩ := deq_spec hc hcap k.head_lt
  obtain ⟨rfl, rfl⟩ := List.cons.inj (hlist.symm.trans h)
  have hrest : popRest cap q = deqRest cap q := if_neg hc
  exact ⟨if_neg hc, by rw [hrest], by rw [hrest]; exact hcount⟩

end Sys2Proof.Machine
end

section
/-! The debounce commands (41_debounce.md R150, R152). -/

namespace Sys2Proof

/-- A field of X is a field of the word. -/
theorem extractLsb'_cmdX (w : CmdWord) {k n : Nat} (h : k + n ≤ 8) :
    (cmdX w).extractLsb' k n = w.extractLsb' (48 + k) n := by
  ext i hi
  rw [cmdX, BitVec.getElem_extractLsb', BitVec.getLsbD_extractLsb', BitVec.getElem_extractLsb', ← Nat.add_assoc,
    decide_eq_true (by omega), Bool.true_and]

/-- X[7:3] are the bits that the row of DEB_PEEK checks (30_encoding.md R83). -/
theorem extractLsb'_3_eq_zero_of_and_eq_zero {x : Byte} (h : x &&& 0xF8#8 = 0#8) : x.extractLsb' 3 5 = 0#5 := by
  revert x
  decide

theorem decodeCmd64_debPeek_reserved {w : CmdWord} (hop : cmdOp w = 0x03#8) (hx : w.extractLsb' 51 5 ≠ 0#5) :
    decodeCmd64 w = .reserved 0x03#8 := by
  rw [← packCmd_row_fields (r := debPeekRow) hop.symm]
  refine decodeCmd64_of_not_clear debPeekRow_mem fun hc => hx ?_
  obtain ⟨hz, -, -⟩ := xRow_clear_iff.mp hc
  rw [← extractLsb'_cmdX w (k := 3) (by decide), extractLsb'_3_eq_zero_of_and_eq_zero hz]

namespace Machine

theorem exec_btnPop {s : State} (hh : s.hof.halted = false) :
    exec .btnPop s = .next ((s.setDeb { s.deb with btnq := popRest s.cfg.btnqCap s.deb.btnq }).respond
      (popResp s.deb.btnq)) :=
  congrArg Host.Outcome.next (onCommand_ok _ hh)

theorem exec_debPeek {s : State} (hh : s.hof.halted = false) (pin : BitVec 3) :
    exec (.debPeek pin) s = .next (s.respond (peekWord s.deb pin.toFin)) :=
  congrArg Host.Outcome.next (onCommand_ok _ hh)

theorem getElem_debSet_fin (d : Deb) (i : Fin 8) : (debSet d)[i] = (d.rem[i] != 0#8) := getElem_debSet d i i.isLt

/-- The fields of the answer of DEB_PEEK (R152) of more than one bit. -/
theorem peekWord_fields (d : Deb) (i : Fin 8) :
    (peekWord d i).extractLsb' 0 8 = d.rem[i] ∧ (peekWord d i).extractLsb' 8 8 = d.vote[i] ∧
    (peekWord d i).extractLsb' 18 14 = 0#14 := by
  unfold peekWord
  refine ⟨?_, ?_, ?_⟩
  all_goals
    change BitVec.extractLsb' (n := 14 + 1 + 1 + 8 + 8) _ _ _ = _
    repeat rw [BitVec.extractLsb'_append_eq_of_le (by decide)]
  · exact BitVec.extractLsb'_append_eq_right
  · exact BitVec.extractLsb'_append_eq_right
  · exact BitVec.extractLsb'_eq_self

/-- The one-bit fields of the answer of DEB_PEEK (R152). -/
theorem getElem_peekWord (d : Deb) (i : Fin 8) :
    (peekWord d i)[16] = d.edgePend[i] ∧ (peekWord d i)[17] = (debSet d)[i] := by
  unfold peekWord
  refine ⟨?_, ?_⟩
  all_goals
    change BitVec.getLsbD (w := 14 + 1 + 1 + 8 + 8) _ _ = _
    simp only [BitVec.getLsbD_append, BitVec.getLsbD_ofBool]
    rfl

/-- A lane outside BTN_MASK reads 0 (R152). -/
theorem peekWord_of_not_button {c : Cfg} {d : Deb} (k : DebInv c d) {i : Fin 8} (hb : c.btnMask[i] = false) :
    peekWord d i = 0#32 := by
  obtain ⟨lane, -, -⟩ := debInv_iff.mp k
  have hrem : d.rem[i] = 0#8 := k.button i hb
  have hvote : d.vote[i] = 0#8 := k.idle_vote i hrem
  have hpend : d.edgePend[i] = false :=
    Bool.eq_false_iff.mpr fun hp => Bool.false_ne_true (hb.symm.trans ((lane i).pend_button hp))
  have hset : (debSet d)[i] = false := by rw [getElem_debSet_fin, hrem]; rfl
  rw [peekWord, hrem, hvote, hpend, hset]
  decide

/-- Settles O23: the word, the pop of an empty queue, and the pop of the first entry. -/
theorem buttonPopIsFifo : Obligations.ButtonPopIsFifo := by
  refine ⟨decodeCmd64_eq_cmd_iff_eq rfl (by decide), fun s hh _ hcap k => ⟨fun hc => ?_, fun m ms hq => ?_⟩⟩
  · rw [exec_btnPop hh, popRest_of_empty hc, popResp_of_empty hc]
    rfl
  · obtain ⟨hresp, hrest, hcount⟩ := pop_of_queueList_cons k hcap hq
    refine ⟨popRest s.cfg.btnqCap s.deb.btnq, ?_, hrest, hcount⟩
    rw [exec_btnPop hh, hresp, popValid_eq_or]
    rfl

/-- Settles O24: the words, the checked bits of X, and the fields of the answer. -/
theorem debPeekShowsOneLane : Obligations.DebPeekShowsOneLane := by
  refine ⟨fun w pin => decodeCmd64_eq_cmd_iff_eq rfl rfl w,
    fun s w hh hop hx => evtCmd_faults_of_reserved hh (decodeCmd64_debPeek_reserved hop hx),
    fun s pin hh => ⟨peekWord s.deb pin.toFin, exec_debPeek hh pin, ?_, ?_, fun k hb => ?_⟩⟩
  · intro i hi
    obtain rfl : i = pin.toFin := Fin.ext hi
    obtain ⟨hrem, hvote, -⟩ := peekWord_fields s.deb pin.toFin
    obtain ⟨hpend, hset⟩ := getElem_peekWord s.deb pin.toFin
    refine ⟨hrem, hvote, hpend, ?_⟩
    rw [hset, getElem_debSet_fin, bne_iff_ne]
  · obtain ⟨-, -, hzero⟩ := peekWord_fields s.deb pin.toFin
    exact hzero
  · exact peekWord_of_not_button k ((BitVec.getLsbD_eq_getElem pin.isLt).symm.trans hb)

end Machine

end Sys2Proof
end

section
/-! The stimulus decoder is the encoder read backwards (30_encoding.md R91, R92). -/

namespace Sys2Proof

theorem decodeEvt16_of_cmd_tag {h : EvtWord} (ht : evtTag h = 0x08#8) :
    decodeEvt16 h = checkPayload h 0xFF#8 .cmdHeader := by
  simp [decodeEvt16, ht]

theorem wf_of_encode_half {i : Instr} {h : EvtWord} (he : encode i = [.half h]) : i.wf = true := by
  obtain ⟨c, rfl⟩ | ⟨v, rfl⟩ | rfl | rfl | ⟨b, rfl⟩ | rfl | ⟨c, d, rfl⟩ | rfl | ⟨w, rfl⟩ :=
    Machine.command_or_stimulus i
  · simp [encode_toInstr] at he
  all_goals rfl

/-- A stimulus decodes from the word that encodes it, and from no other. -/
theorem decodeEvt16_eq_event_iff {h : EvtWord} {i : Instr} : decodeEvt16 h = .event i ↔ encode i = [.half h] := by
  constructor
  · intro hd
    by_cases htag : evtTag h = 0#8 ∨ 9 ≤ (evtTag h).toNat
    · cases hd.symm.trans (decodeEvt16_of_unknown_tag htag)
    have h1 : 1 ≤ (evtTag h).toNat := by bv_omega
    have h8 : (evtTag h).toNat ≤ 8 := by omega
    by_cases hz : evtPayload h &&& payloadZeros (evtTag h) = 0#8
    · by_cases h7 : (evtTag h).toNat ≤ 7
      · obtain ⟨j, hj, hd'⟩ := decodeEvt16_of_stimulus h1 h7 hz
        cases hd.symm.trans hd'
        exact hj
      · have hcmd : evtTag h = 0x08#8 := by bv_omega
        rw [decodeEvt16_of_cmd_tag hcmd, checkPayload] at hd
        split at hd <;> cases hd
    · cases hd.symm.trans (decodeEvt16_of_bad_payload h1 h8 hz)
  · intro he
    have hread : readTrace [.half h] = .run i [] 1 := by
      simpa [he] using readTrace_encode (wf_of_encode_half he) []
    cases hd : decodeEvt16 h with
    | event j =>
      cases (readTrace_event hd []).symm.trans hread
      rfl
    | cmdHeader => simp [readTrace, hd] at hread
    | badTag t => cases (readTrace_badTag hd []).symm.trans hread
    | badPayload t v => cases (readTrace_badPayload hd []).symm.trans hread

end Sys2Proof
end

section
/-! PINS (41_debounce.md R141, R142): what each lane captures, and what a parked engine makes of it. -/

namespace Sys2Proof.Machine

theorem getElem_pinEdges (c : Cfg) (old v : Byte) (i : Nat) (h : i < 8) :
    (pinEdges c old v)[i] = if c.edge = .falling then old[i] && !v[i] else old[i] != v[i] := by
  unfold pinEdges
  cases c.edge with
  | falling => simp
  | both =>
    rw [if_neg (by decide), BitVec.getElem_xor]

/-- A lane captures an edge if it is a button's and not debouncing (R141). -/
theorem getElem_capture_edgePend (c : Cfg) (old v : Byte) (d : Deb) (i : Nat) (h : i < 8) :
    (capture c old v d).edgePend[i] =
      (d.edgePend[i] || ((pinEdges c old v)[i] && c.btnMask[i] && d.rem[i] == 0#8)) := by
  simp [capture, bne]

theorem foldTouched_of_clear (c : Cfg) {d : Deb} (h : d.edgePend = 0#8) : foldTouched c d = d := by
  obtain ⟨pend, rem, vote, q⟩ := d
  obtain rfl : pend = 0#8 := h
  simp [foldTouched]

/-- A parked engine takes what it captured into debouncing; if that is nothing, no lane moves (R142). -/
theorem debPins_of_parked {d : Deb} (hp : parked d = true) (c : Cfg) (old v : Byte) :
    debPins c old v d = foldTouched c (capture c old v d) := by
  unfold debPins
  by_cases hc : (capture c old v d).edgePend = 0#8
  · simp [hc, foldTouched_of_clear]
  · simp [hp, hc]

theorem debPins_of_sampling {d : Deb} (hp : parked d = false) (c : Cfg) (old v : Byte) :
    debPins c old v d = capture c old v d := by
  simp [debPins, hp]

theorem exec_evtPins {s : State} (hh : s.hof.halted = false) (v : Byte) :
    exec (.evtPins v) s =
      .next ((s.setInp { s.inp with pins := v }).setDeb (debPins s.cfg s.inp.pins v s.deb)) :=
  congrArg Host.Outcome.next (onStimulus_ok _ _ hh)

theorem parked_eq_false_iff {d : Deb} : parked d = false ↔ ∃ i : Fin 8, d.rem[i] ≠ 0#8 := by
  rw [← not_parked_iff, Bool.not_eq_true']

/-- Settles O25: the words, and the captured lanes of a parked and of a sampling engine. -/
theorem pinsCaptureAndWake : Obligations.PinsCaptureAndWake := by
  refine ⟨fun h v => ?_, fun s v hh => ⟨debPins s.cfg s.inp.pins v s.deb, exec_evtPins hh v, ?_, ?_, ?_⟩⟩
  · rw [decodeEvt16_eq_event_iff]
    simp [encode, packEvt, eq_comm]
  · cases hp : parked s.deb with
    | true => rw [debPins_of_parked hp]; rfl
    | false => rw [debPins_of_sampling hp]; rfl
  · intro hidle
    rw [debPins_of_parked (parked_iff.mpr hidle)]
    refine ⟨rfl, fun i => ⟨?_, ?_⟩⟩
    · exact (foldTouched_rem ..).trans (by rw [getElem_capture_edgePend, getElem_pinEdges]; rfl)
    · exact (foldTouched_vote ..).trans (by rw [getElem_capture_edgePend, getElem_pinEdges]; rfl)
  · intro hbusy
    rw [debPins_of_sampling (parked_eq_false_iff.mpr hbusy)]
    exact ⟨rfl, rfl, fun i => (getElem_capture_edgePend ..).trans (by rw [getElem_pinEdges]; rfl)⟩

end Sys2Proof.Machine
end

section
/-! TICK (41_debounce.md R143, R144) with the counters read as numbers (R153). -/

namespace Sys2Proof.Machine

/-- The vote of R144 on a number of 1-samples. -/
def pressCount (c : Cfg) (k : Nat) : Bool :=
  if c.voteCmp = .exact then decide (4 * k < c.window) else decide (k < c.window / 4)

theorem pressVote_eq_pressCount (c : Cfg) (k : Byte) : pressVote c k = pressCount c k.toNat := by
  unfold pressVote pressCount
  cases c.voteCmp <;> rfl

/-- The 1-samples of lane `i`, the present one included (R143, step 1). -/
def Deb.samples (d : Deb) (pins : Byte) (i : Fin 8) : Nat := d.vote[i].toNat + if pins[i] then 1 else 0

/-- Lane `i` ends its window in this TICK, pressed (R143, steps 2 and 3). -/
def Deb.presses (d : Deb) (c : Cfg) (pins : Byte) (i : Fin 8) : Bool :=
  d.rem[i] == 1#8 && pressCount c (d.samples pins i)

/-! ## One lane -/

section
variable (c : Cfg) (pins : Byte) (d : Deb) (i : Fin 8)

/-- Every debouncing lane counts down, and a lane at 0 stays there. -/
theorem toNat_tickRem : (tickRem d i).toNat = d.rem[i].toNat - 1 := by
  rw [tickRem, getElem_debSet_fin]
  by_cases hr : d.rem[i] = 0#8
  · simp [hr]
  · rw [bne_iff_ne.mpr hr, if_pos rfl]
    bv_omega

theorem tickFin_eq : tickFin d i = (d.rem[i] == 1#8) := by
  rw [Bool.eq_iff_iff, tickFin, getElem_debSet_fin, Bool.and_eq_true, bne_iff_ne, beq_iff_eq, beq_iff_eq,
    ← BitVec.toNat_inj (x := tickRem d i), toNat_tickRem]
  bv_omega

theorem rem_foldTouched_tickLanes (q : Queue) :
    (foldTouched c { tickLanes pins d with btnq := q }).rem[i] =
      if d.edgePend[i] then BitVec.ofNat 8 c.window else tickRem d i := by
  simp

theorem vote_foldTouched_tickLanes (q : Queue) :
    (foldTouched c { tickLanes pins d with btnq := q }).vote[i] =
      if d.edgePend[i] then 0#8 else if tickFin d i then 0#8 else tickVote pins d i := by
  simp

end

/-! ## The whole engine -/

/-- The lanes that a TICK without a fault leaves: begun, finished or counted. -/
structure Ticked (c : Cfg) (pins : Byte) (d x : Deb) : Prop where
  edgePend : x.edgePend = 0#8
  rem : ∀ i : Fin 8, x.rem[i].toNat = if d.edgePend[i] then c.window else d.rem[i].toNat - 1
  vote : ∀ i : Fin 8, x.vote[i].toNat =
    if d.edgePend[i] || decide (d.rem[i].toNat ≤ 1) then 0 else d.samples pins i

section
variable {c : Cfg} {pins : Byte} {d : Deb}

/-- A debouncing lane counts its sample; its vote does not wrap (R153). -/
theorem toNat_tickVote (k : DebInv c d) (hw : c.window ≤ 255) {i : Fin 8} (hr : d.rem[i] ≠ 0#8) :
    (tickVote pins d i).toNat = d.samples pins i := by
  have hle := k.vote_le i hr
  rw [tickVote, getElem_debSet_fin, bne_iff_ne.mpr hr, Bool.true_and, Deb.samples]
  split
  · bv_omega
  · rfl

theorem ticked_foldTouched (k : DebInv c d) (hw : c.window ≤ 255) (q : Queue) :
    Ticked c pins d (foldTouched c { tickLanes pins d with btnq := q }) where
  edgePend := rfl
  rem i := by
    rw [rem_foldTouched_tickLanes]
    split
    · rw [BitVec.toNat_ofNat]
      omega
    · exact toNat_tickRem d i
  vote i := by
    rw [vote_foldTouched_tickLanes, tickFin_eq]
    cases d.edgePend[i] with
    | true => rfl
    | false =>
      by_cases h0 : d.rem[i] = 0#8
      · have hset : (debSet d)[i] = false := by rw [getElem_debSet_fin, h0]; rfl
        simp [h0, tickVote, hset, k.idle_vote i h0]
      · by_cases h1 : d.rem[i] = 1#8
        · simp [h1]
        · have hle : ¬ d.rem[i].toNat ≤ 1 := by bv_omega
          rw [beq_eq_false_iff_ne.mpr h1, decide_eq_false hle]
          exact toNat_tickVote k hw h0

theorem getElem_tickPressed_eq_presses (k : DebInv c d) (hw : c.window ≤ 255) (i : Fin 8) :
    (tickPressed c pins d)[i] = d.presses c pins i := by
  refine (getElem_tickPressed c pins d i i.isLt).trans ?_
  rw [tickFin_eq, pressVote_eq_pressCount, Deb.presses]
  by_cases hr : d.rem[i] = 1#8
  · rw [toNat_tickVote k hw (by rw [hr]; decide)]
  · rw [beq_eq_false_iff_ne.mpr hr, Bool.false_and, Bool.false_and]

theorem tickPressed_eq_zero_iff (k : DebInv c d) (hw : c.window ≤ 255) :
    tickPressed c pins d = 0#8 ↔ ∀ i, d.presses c pins i = false := by
  rw [byte_eq_zero_iff]
  exact forall_congr' fun i => by rw [← getElem_tickPressed_eq_presses k hw]; rfl

theorem no_press_or_press (c : Cfg) (pins : Byte) (d : Deb) :
    (∀ i, d.presses c pins i = false) ∨ ∃ i, d.presses c pins i = true := by
  simpa using em (∀ i, d.presses c pins i = false)

theorem not_no_press (h : ∃ i, d.presses c pins i = true) : ¬ ∀ i, d.presses c pins i = false := by
  simpa using h

theorem tickPressed_ne_zero (k : DebInv c d) (hw : c.window ≤ 255) (h : ∃ i, d.presses c pins i = true) :
    tickPressed c pins d ≠ 0#8 :=
  mt (tickPressed_eq_zero_iff k hw).mp (not_no_press h)

/-- A window can only end where one runs. -/
theorem parked_eq_false_of_presses (h : ∃ i, d.presses c pins i = true) : parked d = false := by
  obtain ⟨i, hi⟩ := h
  obtain ⟨hrem, -⟩ := Bool.and_eq_true_iff.mp hi
  exact parked_eq_false_iff.mpr ⟨i, by rw [beq_iff_eq.mp hrem]; decide⟩

/-- TICK on a sampling engine with no press to report. -/
theorem debTick_of_no_press (k : DebInv c d) (hw : c.window ≤ 255) (h : ∀ i, d.presses c pins i = false) :
    ∃ x, debTick c pins d = .ok x ∧ Ticked c pins d x ∧ x.btnq = d.btnq :=
  ⟨_, if_pos ((tickPressed_eq_zero_iff k hw).mpr h), ticked_foldTouched k hw d.btnq, rfl⟩

/-- TICK with a press and a place for it. -/
theorem debTick_of_press (k : DebInv c d) (hw : c.window ≤ 255) (hcap : c.btnqCap ≤ 15)
    (h : ∃ i, d.presses c pins i = true) (hq : d.btnq.count.toNat ≠ c.btnqCap) :
    ∃ x, debTick c pins d = .ok x ∧ Ticked c pins d x ∧
      queueList c.btnqCap x.btnq = queueList c.btnqCap d.btnq ++ [tickPressed c pins d] := by
  obtain ⟨-, -, hlist⟩ := enq_spec (tickPressed c pins d) (lt_of_le_of_ne k.queue.count_le hq) hcap k.queue.head_lt
  obtain ⟨h0, -⟩ | ⟨-, -, e⟩ | ⟨-, hfull, -⟩ := debTick_cases c pins d
  · exact absurd h0 (tickPressed_ne_zero k hw h)
  · exact ⟨_, e, ticked_foldTouched k hw _, hlist⟩
  · exact absurd hfull hq

theorem debTick_of_full (k : DebInv c d) (hw : c.window ≤ 255) (h : ∃ i, d.presses c pins i = true)
    (hq : d.btnq.count.toNat = c.btnqCap) :
    debTick c pins d = .error { code := .btnqFull, info := (tickPressed c pins d).setWidth 64 } := by
  obtain ⟨h0, -⟩ | ⟨-, hroom, -⟩ | ⟨-, -, e⟩ := debTick_cases c pins d
  · exact absurd h0 (tickPressed_ne_zero k hw h)
  · exact absurd hq hroom
  · exact e

end

/-! ## The stimulus -/

section
variable {s : State}

theorem exec_evtTick_of_parked (hh : s.hof.halted = false) (hp : parked s.deb = true) :
    exec .evtTick s = .next s := by
  show Host.Outcome.next (onStimulus s s (tickHandler s)) = _
  rw [tickHandler, if_pos hp, onStimulus_ok _ _ hh]

theorem exec_evtTick_of_sampling (hh : s.hof.halted = false) (hp : parked s.deb = false) {x : Deb}
    (h : debTick s.cfg s.inp.pins s.deb = .ok x) : exec .evtTick s = .next (s.setDeb x) := by
  show Host.Outcome.next (onStimulus s s (tickHandler s)) = _
  rw [tickHandler, hp, h]
  exact congrArg Host.Outcome.next (onStimulus_ok _ _ hh)

/-- A TICK that raises a fault on a block that runs (60_exceptions.md R303). -/
theorem exec_evtTick_faults (hh : s.hof.halted = false) (hp : parked s.deb = false) {f : FaultRecord}
    (h : debTick s.cfg s.inp.pins s.deb = .error f) : stimulusFaults (exec .evtTick s) s f.code.bits f.info := by
  refine ⟨f :: s.faultLog, ?_⟩
  show Host.Outcome.next (onStimulus s s (tickHandler s)) = _
  rw [tickHandler, hp, h]
  exact congrArg Host.Outcome.next (onStimulus_error _ _ hh)

end

/-- Settles O26: the word, the parked engine, the full queue, and the lanes and the queue after any other TICK. -/
theorem tickVotesCountsAndFinalizes : Obligations.TickVotesCountsAndFinalizes := by
  refine ⟨fun h => ?_, fun s inv hh => ⟨fun hidle => exec_evtTick_of_parked hh (parked_iff.mpr hidle), ?_, ?_⟩⟩
  · rw [decodeEvt16_eq_event_iff]
    simp [encode, packEvt, eq_comm]
  all_goals
    obtain ⟨hw, ⟨-, hcap⟩, -⟩ := Cfg.wf_ranges inv.config
    have k := inv.deb
    have pressed := getElem_tickPressed_eq_presses (pins := s.inp.pins) k hw
  · intro hpress hfull
    exact ⟨tickPressed s.cfg s.inp.pins s.deb, pressed,
      exec_evtTick_faults hh (parked_eq_false_of_presses hpress) (debTick_of_full k hw hpress hfull)⟩
  · intro hbusy hcalm
    have hp : parked s.deb = false := parked_eq_false_iff.mpr hbusy
    obtain hno | hpress := no_press_or_press s.cfg s.inp.pins s.deb
    · obtain ⟨x, hx, hticked, hq⟩ := debTick_of_no_press k hw hno
      exact ⟨x, exec_evtTick_of_sampling hh hp hx, hticked.edgePend, hticked.rem, hticked.vote, fun _ => hq,
        fun hpress => absurd hno (not_no_press hpress)⟩
    · have hroom := hcalm.resolve_left (not_no_press hpress)
      obtain ⟨x, hx, hticked, hq⟩ := debTick_of_press k hw hcap hpress hroom
      exact ⟨x, exec_evtTick_of_sampling hh hp hx, hticked.edgePend, hticked.rem, hticked.vote,
        fun hno => absurd hno (not_no_press hpress), fun _ => ⟨_, pressed, hq⟩⟩

end Sys2Proof.Machine
end

section
/-! A whole debounce window of the only button lane (41_debounce.md R144, R147). -/

namespace Sys2Proof.Machine

theorem StateInv.after {s : State} (k : StateInv s) (i : Instr) : StateInv (after i s) := by
  obtain ⟨t, ht⟩ := exec_next i s
  rw [Machine.after, ht]
  exact k.exec ht

/-- If PINS leaves the latch clear, it leaves the engine as it was. -/
theorem capture_of_clear {c : Cfg} {old v : Byte} {d : Deb} (h : (capture c old v d).edgePend = 0#8) :
    capture c old v d = d := by
  obtain ⟨hd, -⟩ := BitVec.or_eq_zero_iff.mp h
  calc capture c old v d = { d with edgePend := 0#8 } := congrArg (fun e => { d with edgePend := e }) h
    _ = d := by rw [← hd]

theorem window_pos_of_wf {c : Cfg} (h : c.wf = true) : 0 < c.window := by
  simp [Cfg.wf] at h
  omega

/-- Lane `i` is the only button, the queue has a place, `n` samples of the lane's window are still to come, and `k` of
those taken were 1. -/
structure SoleWindow (i : Fin 8) (n k : Nat) (s : State) : Prop where
  inv : StateInv s
  running : s.hof.halted = false
  mask : s.cfg.btnMask = 1#8 <<< i.val
  room : s.deb.btnq.count.toNat ≠ s.cfg.btnqCap
  left : s.deb.rem[i].toNat = n
  counted : s.deb.vote[i].toNat = k

/-- From `s` to `t` lane `i` has resolved: `t` is parked, with one event more if the lane was pressed. -/
structure Resolved (i : Fin 8) (press : Bool) (s t : State) : Prop where
  hof : t.hof = s.hof
  parked : parked t.deb = true
  queue : queueList s.cfg.btnqCap t.deb.btnq =
    queueList s.cfg.btnqCap s.deb.btnq ++ if press then [1#8 <<< i.val] else []

theorem getElem_one_shiftLeft (i j : Fin 8) : (1#8 <<< i.val)[j] = decide (j = i) := by
  revert i j
  decide

section
variable {i : Fin 8} {n k : Nat} {s : State}

theorem SoleWindow.rem_other (w : SoleWindow i n k s) {j : Fin 8} (hj : j ≠ i) : s.deb.rem[j] = 0#8 :=
  w.inv.deb.button j (by rw [w.mask, getElem_one_shiftLeft, decide_eq_false hj])

theorem SoleWindow.sampling (w : SoleWindow i (n + 1) k s) : parked s.deb = false :=
  parked_eq_false_iff.mpr ⟨i, fun h => by simpa [h] using w.left⟩

/-- The only button is debouncing, so no edge is captured (R141). -/
theorem SoleWindow.capture_clear (w : SoleWindow i (n + 1) k s) (v : Byte) :
    (capture s.cfg s.inp.pins v s.deb).edgePend = 0#8 := by
  obtain ⟨lane, -⟩ := debInv_iff.mp w.inv.deb
  refine byte_eq_zero_iff.mpr fun j => Bool.eq_false_iff.mpr fun hj => ?_
  have captured := capture_laneInv lane s.inp.pins v j
  have hbutton : (1#8 <<< i.val)[j] = true := w.mask ▸ captured.pend_button hj
  have hidle : s.deb.rem[j] = 0#8 := captured.pend_idle hj
  rw [getElem_one_shiftLeft, decide_eq_true_eq] at hbutton
  have := w.left
  simp [← hbutton, hidle] at this

theorem SoleWindow.latch_clear (w : SoleWindow i (n + 1) k s) (j : Fin 8) : s.deb.edgePend[j] = false := by
  obtain ⟨hclear, -⟩ := BitVec.or_eq_zero_iff.mp (w.capture_clear s.inp.pins)
  exact byte_eq_zero_iff.mp hclear j

theorem SoleWindow.after_evtPins (w : SoleWindow i (n + 1) k s) (v : Byte) :
    after (.evtPins v) s = s.setInp { s.inp with pins := v } := by
  rw [after, exec_evtPins w.running, debPins_of_sampling w.sampling, capture_of_clear (w.capture_clear v)]
  rfl

theorem SoleWindow.pinRound_eq (w : SoleWindow i (n + 1) k s) {v : Byte} {x : Deb} (h : debTick s.cfg v s.deb = .ok x) :
    pinRound s v = (s.setInp { s.inp with pins := v }).setDeb x := by
  rw [pinRound, w.after_evtPins, after,
    exec_evtTick_of_sampling (s := s.setInp { s.inp with pins := v }) w.running w.sampling h]

/-- Only the button lane can press, at its last sample. -/
theorem SoleWindow.presses_eq (w : SoleWindow i (n + 1) k s) (v : Byte) (j : Fin 8) :
    s.deb.presses s.cfg v j =
      (decide (j = i) && (decide (n = 0) && pressCount s.cfg (k + if v[i] then 1 else 0))) := by
  by_cases hj : j = i
  · subst hj
    have hlast : (s.deb.rem[j] == 1#8) = decide (n = 0) := by
      have := w.left
      rw [Bool.eq_iff_iff, beq_iff_eq, decide_eq_true_eq]
      bv_omega
    rw [Deb.presses, Deb.samples, hlast, w.counted, decide_eq_true rfl, Bool.true_and]
  · rw [Deb.presses, w.rem_other hj, decide_eq_false hj]
    rfl

theorem SoleWindow.rem_ticked (w : SoleWindow i (n + 1) k s) {v : Byte} {x : Deb} (h : Ticked s.cfg v s.deb x)
    (j : Fin 8) : x.rem[j].toNat = if j = i then n else 0 := by
  rw [h.rem j, w.latch_clear]
  by_cases hj : j = i
  · subst hj
    simp [-Fin.getElem_fin, w.left]
  · simp [w.rem_other hj, hj]

/-- A sample that is not the last one is counted, and that is all. -/
theorem SoleWindow.round (w : SoleWindow i (n + 2) k s) (v : Byte) :
    SoleWindow i (n + 1) (k + if v[i] then 1 else 0) (pinRound s v) ∧
      (pinRound s v).hof = s.hof ∧ (pinRound s v).cfg = s.cfg ∧
      (pinRound s v).deb.btnq = s.deb.btnq := by
  obtain ⟨hw, -⟩ := Cfg.wf_ranges w.inv.config
  have hno : ∀ j, s.deb.presses s.cfg v j = false := fun j => by simp [w.presses_eq]
  obtain ⟨x, hx, hticked, hq⟩ := debTick_of_no_press w.inv.deb hw hno
  have inv : StateInv (pinRound s v) := (w.inv.after _).after _
  have hvote : x.vote[i].toNat = k + if v[i] then 1 else 0 := by
    have := w.left
    rw [hticked.vote i, w.latch_clear]
    simp [-Fin.getElem_fin, Deb.samples, w.counted, this]
  rw [w.pinRound_eq hx] at inv ⊢
  exact ⟨⟨inv, w.running, w.mask, by simpa [hq] using w.room, by simpa using w.rem_ticked hticked i, hvote⟩,
    rfl, rfl, hq⟩

/-- The last sample decides (R144). -/
theorem SoleWindow.last_round (w : SoleWindow i 1 k s) (v : Byte) :
    Resolved i (pressCount s.cfg (k + if v[i] then 1 else 0)) s (pinRound s v) := by
  obtain ⟨hw, ⟨-, hcap⟩, -⟩ := Cfg.wf_ranges w.inv.config
  have parks {x : Deb} (hticked : Ticked s.cfg v s.deb x) : parked x = true :=
    parked_iff.mpr fun j => BitVec.eq_of_toNat_eq (by simpa using w.rem_ticked hticked j)
  cases hpress : pressCount s.cfg (k + if v[i] then 1 else 0) with
  | false =>
    have hno : ∀ j, s.deb.presses s.cfg v j = false := fun j => by simp [-Fin.getElem_fin, w.presses_eq, hpress]
    obtain ⟨x, hx, hticked, hq⟩ := debTick_of_no_press w.inv.deb hw hno
    rw [w.pinRound_eq hx]
    exact ⟨rfl, parks hticked, by simp [hq]⟩
  | true =>
    have hi : ∀ j, s.deb.presses s.cfg v j = decide (j = i) := fun j => by
      simp [-Fin.getElem_fin, w.presses_eq, hpress]
    obtain ⟨x, hx, hticked, hq⟩ := debTick_of_press w.inv.deb hw hcap ⟨i, by rw [hi, decide_eq_true rfl]⟩ w.room
    have hmask : tickPressed s.cfg v s.deb = 1#8 <<< i.val := byte_ext fun j =>
      (getElem_tickPressed_eq_presses w.inv.deb hw j).trans ((hi j).trans (getElem_one_shiftLeft i j).symm)
    rw [w.pinRound_eq hx]
    exact ⟨rfl, parks hticked, by rw [State.setDeb_deb, hq, hmask]; rfl⟩

theorem SoleWindow.resolved {vs : List Byte} (hne : vs ≠ []) (w : SoleWindow i vs.length k s) :
    Resolved i (pressCount s.cfg (k + vs.countP fun v => v[i])) s (vs.foldl pinRound s) := by
  induction vs generalizing s k with
  | nil => exact absurd rfl hne
  | cons v vs ih =>
    rw [List.foldl_cons, List.countP_cons, Nat.add_comm (vs.countP _), ← Nat.add_assoc]
    cases vs with
    | nil => exact w.last_round v
    | cons v' vs =>
      obtain ⟨w', hhof, hcfg, hq⟩ := w.round v
      have h := ih (List.cons_ne_nil v' vs) w'
      exact ⟨h.hof.trans hhof, h.parked, by simpa only [hcfg, hq] using h.queue⟩

end

/-- Settles O27, by induction on the samples: each counts, and the last one decides. -/
theorem windowIsDecidedByTheCount : Obligations.WindowIsDecidedByTheCount := by
  intro s i vs inv hh hmask hrem hvote hroom hlen
  have w : SoleWindow i vs.length 0 s := ⟨inv, hh, hmask, hroom, hrem.trans hlen.symm, by rw [hvote]; rfl⟩
  have hne : vs ≠ [] := by
    rintro rfl
    exact absurd hlen (window_pos_of_wf inv.config).ne
  have h := w.resolved hne
  rw [Nat.zero_add] at h
  exact ⟨h.hof, h.parked, h.queue⟩

end Sys2Proof.Machine
end

section
/-! The two environment wires of the UART and the I2C bus, and the receive queue's pop (42_uart.md R194, R205;
43_i2c.md R269). -/

namespace Sys2Proof.Machine

/-- A stimulus that only moves a wire does so halted or not (60_exceptions.md R302). -/
theorem onStimulus_wire (s wire : State) : onStimulus s wire (.ok wire) = wire := by
  obtain ⟨-, e⟩ | ⟨-, t, ht, e⟩ | ⟨-, f, hf, -⟩ := onStimulus_cases s wire (.ok wire)
  · exact e
  · exact e.trans (Except.ok.inj ht).symm
  · cases hf

theorem exec_evtRxd (b : Bool) (s : State) : exec (.evtRxd b) s = .next (s.setInp { s.inp with rxd := b }) :=
  congrArg Host.Outcome.next (onStimulus_wire s _)

theorem exec_evtBusext (c d : Bool) (s : State) :
    exec (.evtBusext c d) s = .next (s.setInp { s.inp with sclExt := c, sdaExt := d }) :=
  congrArg Host.Outcome.next (onStimulus_wire s _)

/-- A stimulus decodes from its own word only. -/
theorem decodeEvt16_eq_event_iff_eq {i : Instr} {v : EvtWord} (hv : encode i = [.half v]) (h : EvtWord) :
    decodeEvt16 h = .event i ↔ h = v := by
  rw [decodeEvt16_eq_event_iff, hv, List.singleton_inj, TraceItem.half.injEq, eq_comm]

theorem encode_evtRxd (b : Bool) : encode (.evtRxd b) = [.half (0x04#8 ++ 0#7 ++ BitVec.ofBool b)] := by
  cases b <;> rfl

theorem encode_evtBusext (c d : Bool) :
    encode (.evtBusext c d) = [.half (0x06#8 ++ 0#6 ++ BitVec.ofBool d ++ BitVec.ofBool c)] := by
  cases c <;> cases d <;> rfl

/-- Settles O36: the two words, and the wires through the halt gate. -/
theorem rxdAndBusextMoveWires : Obligations.RxdAndBusextMoveWires :=
  ⟨fun h b => decodeEvt16_eq_event_iff_eq (encode_evtRxd b) h,
    fun h c d => decodeEvt16_eq_event_iff_eq (encode_evtBusext c d) h,
    fun s b c d => ⟨exec_evtRxd b s, exec_evtBusext c d s⟩⟩

theorem exec_uartRxPop {s : State} (hh : s.hof.halted = false) :
    exec .uartRxPop s = .next ((s.setRx { s.rx with rxq := popRest s.cfg.rxqCap s.rx.rxq }).respond
      (popResp s.rx.rxq)) :=
  congrArg Host.Outcome.next (onCommand_ok _ hh)

/-- Settles O34: the word, the pop of an empty queue, and the pop of the oldest byte. -/
theorem receivePopIsFifo : Obligations.ReceivePopIsFifo := by
  refine ⟨decodeCmd64_eq_cmd_iff_eq rfl (by decide), fun s hh _ hcap k => ⟨fun hc => ?_, fun c cs hq => ?_⟩⟩
  · rw [exec_uartRxPop hh, popRest_of_empty hc, popResp_of_empty hc]
    rfl
  · obtain ⟨hresp, hrest, hcount⟩ := pop_of_queueList_cons k hcap hq
    refine ⟨popRest s.cfg.rxqCap s.rx.rxq, ?_, hrest, hcount⟩
    rw [exec_uartRxPop hh, hresp, popValid_eq_or]
    rfl

end Sys2Proof.Machine
end

section
/-! `read_until` (42_uart.md R206): the host's copy loop, one pop at a time. -/

namespace Sys2Proof.Machine

theorem getElem_popValid_valid (b : Byte) : (popValid b)[8] = true := by
  show (0#23 ++ 1#1 ++ b : BitVec (23 + 1 + 8))[8] = true
  rw [BitVec.getElem_append]
  simp

theorem extractLsb'_popValid_data (b : Byte) : (popValid b).extractLsb' 0 8 = b := BitVec.extractLsb'_append_eq_right

section
variable {max : Nat} {delim b : Byte} {buf line : List Byte}

theorem hostAction_readUntil_room (h : buf.length < max) : hostAction (.readUntil max delim buf) = .issue .uartRxPop :=
  if_pos h

theorem hostAction_readUntil_full (h : buf.length = max) :
    hostAction (.readUntil max delim buf) = .done (.read max buf) := by
  simp [hostAction, h]

theorem hostNext_readUntil_char (h : buf.length < max) (hb : b ≠ delim) :
    hostNext (.readUntil max delim buf) (popValid b) = .readUntil max delim (buf ++ [b]) := by
  rw [hostNext, if_pos h, if_pos (getElem_popValid_valid b), extractLsb'_popValid_data, if_neg hb]

theorem hostNext_readUntil_delim (h : buf.length < max) :
    hostNext (.readUntil max delim buf) (popValid delim) = .finished (.read buf.length buf) := by
  rw [hostNext, if_pos h, if_pos (getElem_popValid_valid delim), extractLsb'_popValid_data, if_pos rfl]

/-- A pop that found nothing is only repeated. -/
theorem hostNext_readUntil_empty (h : buf.length < max) :
    hostNext (.readUntil max delim buf) 0#32 = .readUntil max delim buf := by
  rw [hostNext, if_pos h]
  rfl

/-- The characters of a line without the delimiter are copied one by one while there is room. -/
theorem hostFeed_readUntil_line (hd : delim ∉ line) (hroom : buf.length + line.length ≤ max) :
    hostFeed (.readUntil max delim buf) (line.map popValid) = .readUntil max delim (buf ++ line) := by
  induction line generalizing buf with
  | nil => rw [List.append_nil]; rfl
  | cons b line ih =>
    rw [List.mem_cons, not_or] at hd
    obtain ⟨hb, hline⟩ := hd
    rw [List.length_cons] at hroom
    show hostFeed (hostNext (.readUntil max delim buf) (popValid b)) (line.map popValid) = _
    rw [hostNext_readUntil_char (by omega) (Ne.symm hb), ih hline (by simp; omega), List.append_assoc]
    rfl

end

/-- Settles O51: the line is copied, and then the delimiter, the bound or an invalid pop decides. -/
theorem readUntilCopiesUpToTheDelimiter : Obligations.ReadUntilCopiesUpToTheDelimiter := by
  intro max delim line hd
  have copied (hroom : line.length ≤ max) :
      hostFeed (uartReadUntil max delim) (line.map popValid) = .readUntil max delim line :=
    hostFeed_readUntil_line (buf := []) hd (by simpa using hroom)
  refine ⟨fun h => ?_, fun h => ?_, fun h => ?_, fun h => ?_⟩
  · rw [List.map_append, hostFeed_append, copied h.le]
    exact hostNext_readUntil_delim h
  · rw [copied h.le, hostAction_readUntil_room h]
  · rw [copied h.le, hostAction_readUntil_full h]
  · rw [hostFeed_append, copied h.le]
    exact hostNext_readUntil_empty h

end Sys2Proof.Machine
end

section
/-! UART_TX (42_uart.md R181): its checks in the order of 60_exceptions.md R307, and the armed transfer. -/

namespace Sys2Proof.Machine

/-- The end of the buffer as the statements write it (20_memory.md R69). -/
theorem bufEnd_eq_ofNat (p : Addr) (n : BitVec 16) : bufEnd p n = BitVec.ofNat 32 (p.toNat + n.toNat) := by
  apply BitVec.eq_of_toNat_eq
  simp [bufEnd]

theorem bufWraps_eq_true_iff {p : Addr} {n : BitVec 16} : bufWraps p n = true ↔ 0xFFFFFFFF < p.toNat + n.toNat :=
  decide_eq_true_iff

theorem bufWraps_eq_false_iff {p : Addr} {n : BitVec 16} : bufWraps p n = false ↔ p.toNat + n.toNat ≤ 0xFFFFFFFF := by
  rw [bufWraps, decide_eq_false_iff_not, not_lt]

section
variable {s : State} {p : Addr} {n : BitVec 16}

theorem uartTxHandler_of_busy (hb : s.tx.txBusy = true) :
    uartTxHandler p n s = .error { code := .txBusy, info := (Command.uartTx p n).word } := by
  rw [uartTxHandler, if_pos hb]

theorem uartTxHandler_of_empty (hb : s.tx.txBusy = false) :
    uartTxHandler p 0#16 s = .error { code := .txLen0, info := (Command.uartTx p 0#16).word } := by
  simp [uartTxHandler, hb]

theorem uartTxHandler_of_wraps (hb : s.tx.txBusy = false) (hn : n ≠ 0#16) (hw : bufWraps p n = true) :
    uartTxHandler p n s = .error { code := .bufWrap, info := (Command.uartTx p n).word } := by
  simp [uartTxHandler, hb, hn, hw]

theorem uartTxHandler_of_unreadable (hb : s.tx.txBusy = false) (hn : n ≠ 0#16) (hw : bufWraps p n = false)
    (hm : memGet s.mem p.toNat = none) :
    uartTxHandler p n s = .error { code := .memRead, info := p.setWidth 64 } := by
  simp [uartTxHandler, hb, hn, hw, memRead, hm]

theorem uartTxHandler_of_accepted {b : Byte} (hb : s.tx.txBusy = false) (hn : n ≠ 0#16) (hw : bufWraps p n = false)
    (hm : memGet s.mem p.toNat = some b) :
    uartTxHandler p n s =
      .ok (((s.setTx (txStart p n b s.tx)).setHof (unlatch s.hof latTxDone)).respond 0#32) := by
  simp [uartTxHandler, hb, hn, hw, memRead, hm]

theorem exec_uartTx (p : Addr) (n : BitVec 16) (s : State) :
    exec (.uartTx p n) s = .next (onCommand s (uartTxHandler p n s)) := rfl

theorem uartTx_faults (hh : s.hof.halted = false) {f : FaultRecord} (h : uartTxHandler p n s = .error f) :
    commandFaults (exec (.uartTx p n) s) s f.code.bits f.info := by
  rw [exec_uartTx, h]
  exact commandFaults_onCommand_error f hh

/-- An accepted UART_TX. -/
theorem exec_uartTx_of_accepted {b : Byte} (hh : s.hof.halted = false) (hb : s.tx.txBusy = false) (hn : n ≠ 0#16)
    (hw : bufWraps p n = false) (hm : memGet s.mem p.toNat = some b) :
    exec (.uartTx p n) s =
      .next (((s.setTx (txStart p n b s.tx)).setHof (unlatch s.hof latTxDone)).respond 0#32) := by
  rw [exec_uartTx, uartTxHandler_of_accepted hb hn hw hm, onCommand_ok _ hh]

end

/-- Settles O28: the word, the four faults in the order of the checks, and the armed transfer. -/
theorem uartTxArmsOrFaults : Obligations.UartTxArmsOrFaults := by
  refine ⟨fun w p n => decodeCmd64_eq_cmd_iff_eq rfl rfl w, fun s p n hh => ⟨fun hb => ?_, fun hb hn => ?_,
    fun hb hn hw => ?_, fun hb hn hw hm => ?_, fun b hb hn hw hm => ?_⟩⟩
  · exact uartTx_faults hh (uartTxHandler_of_busy hb)
  · subst hn
    exact uartTx_faults hh (uartTxHandler_of_empty hb)
  · exact uartTx_faults hh (uartTxHandler_of_wraps hb hn (bufWraps_eq_true_iff.mpr hw))
  · exact uartTx_faults hh (uartTxHandler_of_unreadable hb hn (bufWraps_eq_false_iff.mpr hw) hm)
  · rw [exec_uartTx_of_accepted hh hb hn (bufWraps_eq_false_iff.mpr hw) hm, ← bufEnd_eq_ofNat]
    rfl

end Sys2Proof.Machine
end

section
/-! BAUD16 (42_uart.md R185): the transmit step decides whether it faults, and then both halves move. -/

namespace Sys2Proof.Machine

/-- From `s` to `t` a BAUD16 ran without a fault, and its transmit step answered `x` and `done`. -/
structure Strobed (s : State) (x : UartTx) (done : Bool) (t : State) : Prop where
  running : t.hof.halted = false
  tx : t.tx = x
  rx : t.rx = (rxStep s.cfg s.inp.rxd s.rx).1
  txDone : t.hof.irqLat[1] = (s.hof.irqLat[1] || done)
  rxErr : t.hof.irqLat[4] = (s.hof.irqLat[4] || (rxStep s.cfg s.inp.rxd s.rx).2)
  cfg : t.cfg = s.cfg
  mem : t.mem = s.mem

section
variable {s t : State} {x : UartTx} {done : Bool}

/-- TXDONE and RXERR rise each with its own half (40_handoff.md R114). -/
theorem getElem_latchIf_baud (done rxErr : Bool) (h : Hof) :
    (latchIf rxErr (latchIf done h latTxDone) latRxErr).irqLat[1] = (h.irqLat[1] || done) ∧
    (latchIf rxErr (latchIf done h latTxDone) latRxErr).irqLat[4] = (h.irqLat[4] || rxErr) := by
  cases done <;> cases rxErr <;> simp [latch, latTxDone, latRxErr]

theorem strobed_of_baudHandler_ok (hh : s.hof.halted = false) (h : baudHandler s = .ok t) :
    ∃ x done, txStep s.mem s.tx = .ok (x, done) ∧ Strobed s x done t := by
  obtain ⟨x, done, hx, rfl⟩ := baudHandler_ok h
  obtain ⟨htx, hrx⟩ := getElem_latchIf_baud done (rxStep s.cfg s.inp.rxd s.rx).2 s.hof
  exact ⟨x, done, hx, by simpa using hh, rfl, rfl, htx, hrx, rfl, rfl⟩

/-- Only the transmit step faults (R189). -/
theorem baudHandler_error_iff {f : FaultRecord} : baudHandler s = .error f ↔ txStep s.mem s.tx = .error f := by
  unfold baudHandler
  cases txStep s.mem s.tx <;> simp

theorem exec_evtBaud16_eq (s : State) : exec .evtBaud16 s = .next (onStimulus s s (baudHandler s)) := rfl

/-- Everything a BAUD16 can do on a block that runs. -/
theorem evtBaud16_cases (hh : s.hof.halted = false) (h : exec .evtBaud16 s = .next t) :
    (∃ x done, txStep s.mem s.tx = .ok (x, done) ∧ Strobed s x done t) ∨
    (∃ f, txStep s.mem s.tx = .error f ∧ t = takeFault s f) := by
  obtain rfl := Host.Outcome.next.inj h
  cases hb : baudHandler s with
  | ok t =>
    rw [onStimulus_ok _ _ hh]
    exact .inl (strobed_of_baudHandler_ok hh hb)
  | error f => exact .inr ⟨f, baudHandler_error_iff.mp hb, onStimulus_error _ _ hh⟩

theorem strobed_after (hh : s.hof.halted = false) (h : txStep s.mem s.tx = .ok (x, done)) :
    Strobed s x done (after .evtBaud16 s) := by
  obtain ⟨x', done', hx, k⟩ | ⟨f, hx, -⟩ := evtBaud16_cases hh (t := after .evtBaud16 s) rfl
  · cases h.symm.trans hx
    exact k
  · cases h.symm.trans hx

theorem exec_evtBaud16_strobed (hh : s.hof.halted = false) (h : txStep s.mem s.tx = .ok (x, done)) :
    ∃ t, exec .evtBaud16 s = .next t ∧ Strobed s x done t :=
  ⟨after .evtBaud16 s, rfl, strobed_after hh h⟩

theorem strobed_of_running (hh : s.hof.halted = false) (h : exec .evtBaud16 s = .next t) (ht : t.hof.halted = false) :
    ∃ x done, txStep s.mem s.tx = .ok (x, done) ∧ Strobed s x done t := by
  obtain k | ⟨f, -, rfl⟩ := evtBaud16_cases hh h
  · exact k
  · cases ht

/-- A BAUD16 that raises a fault (60_exceptions.md R303). -/
theorem evtBaud16_faults (hh : s.hof.halted = false) {f : FaultRecord} (h : txStep s.mem s.tx = .error f) :
    stimulusFaults (exec .evtBaud16 s) s f.code.bits f.info := by
  refine ⟨f :: s.faultLog, ?_⟩
  rw [exec_evtBaud16_eq, baudHandler_error_iff.mpr h, onStimulus_error _ _ hh]
  rfl

end

/-- Settles O35: the transmit step reads the transmit half and memory only, and the receive step its half, the line and
the configuration only. -/
theorem uartHalvesAreIndependent : Obligations.UartHalvesAreIndependent := by
  intro s s' t t' hh hh' h h'
  refine ⟨fun htx hmem => ?_, fun hrx hrxd hcfg ht ht' => ?_⟩
  · obtain ⟨x, done, hx, k⟩ | ⟨f, hx, rfl⟩ := evtBaud16_cases hh h <;>
      obtain ⟨x', done', hx', k'⟩ | ⟨f', hx', rfl⟩ := evtBaud16_cases hh' h' <;>
      cases (htx ▸ hmem ▸ hx).symm.trans hx'
    · exact ⟨k.tx.trans k'.tx.symm, k.running.trans k'.running.symm⟩
    · exact ⟨htx, rfl⟩
  · obtain ⟨x, done, -, k⟩ := strobed_of_running hh h ht
    obtain ⟨x', done', -, k'⟩ := strobed_of_running hh' h' ht'
    rw [k.rx, k'.rx, hrx, hrxd, hcfg]

end Sys2Proof.Machine
end

section
/-! The transmit half strobe by strobe (42_uart.md R186, R189). -/

namespace Sys2Proof.Machine

/-- The shifter takes a new byte in this strobe if one waits: it is idle, or its frame ends. -/
def UartTx.Free (t : UartTx) : Prop := t.txAct = false ∨ t.txPre = 15#4 ∧ t.txBit = 9#4

/-- The frame bits after the start bit (30_encoding.md R93). -/
theorem frameBit_add_one (b : Byte) {j : BitVec 4} (hj : j.toNat ≤ 8) :
    frameBit b (j + 1#4) = if j = 8#4 then true else b.getLsbD j.toNat := by
  have hne : j + 1#4 ≠ 0#4 := by bv_omega
  have hnat : (j + 1#4).toNat = j.toNat + 1 := by bv_omega
  rw [frameBit, if_neg hne, hnat, Nat.add_sub_cancel]
  by_cases h8 : j = 8#4
  · rw [if_pos h8, if_neg (by simp [h8])]
  · rw [if_neg h8, if_pos (by bv_omega)]

section
variable {m : Memory} {t : UartTx}

theorem txShift_of_idle (h : t.txAct = false) : txShift t = t := by
  simp [txShift, h]

theorem txShift_of_counting (ha : t.txAct = true) (hp : t.txPre ≠ 15#4) :
    txShift t = { t with txPre := t.txPre + 1#4 } := by
  simp [txShift, ha, hp]

theorem txShift_of_bitEnd (ha : t.txAct = true) (hp : t.txPre = 15#4) (h9 : t.txBit ≠ 9#4) :
    txShift t = { t with txPre := 0#4, txBit := t.txBit + 1#4, txd := frameBit t.tsr (t.txBit + 1#4) } := by
  have hne : t.txBit + 1#4 ≠ 10#4 := by bv_omega
  simp [txShift, ha, hp, hne]

theorem txShift_of_frameEnd (ha : t.txAct = true) (hp : t.txPre = 15#4) (h9 : t.txBit = 9#4) :
    txShift t = { t with txPre := 0#4, txBit := 0#4, txAct := false, txd := true } := by
  simp [txShift, ha, hp, h9]

/-- A shifter that is busy after its move, or finds no byte waiting, loads nothing. -/
theorem txStep_of_shift {x : UartTx} (e : txShift t = x) (h : x.txAct = true ∨ x.thrFull = false) :
    txStep m t = .ok (x, false) := by
  subst e
  obtain ⟨hact, hfull, -⟩ | ⟨-, e⟩ := txStep_cases m t
  · simp [hact, hfull] at h
  · exact e

/-- A free shifter loads the waiting byte, and TXE runs. -/
theorem txStep_of_load (hfree : t.Free) (hf : t.thrFull = true) : txStep m t = txe m (txLoad t) := by
  have key : (txShift t).txAct = false ∧ (txShift t).thrFull = true ∧ txLoad (txShift t) = txLoad t := by
    cases ha : t.txAct with
    | false =>
      rw [txShift_of_idle ha]
      exact ⟨ha, hf, rfl⟩
    | true =>
      obtain h | ⟨hp, h9⟩ := hfree
      · cases ha.symm.trans h
      · rw [txShift_of_frameEnd ha hp h9]
        exact ⟨rfl, hf, rfl⟩
  obtain ⟨hact, hfull, hload⟩ := key
  rw [txStep, hact, hfull, hload]
  rfl

/-- The load of the last byte completes the transfer (R189). -/
theorem txStep_of_last (hfree : t.Free) (hf : t.thrFull = true) (hlast : t.txCur + 1#32 = t.txEnd) :
    txStep m t = .ok ({ txLoad t with txCur := t.txCur + 1#32, txBusy := false }, true) :=
  (txStep_of_load hfree hf).trans (if_pos hlast)

/-- A load with a byte left to read (R189). -/
theorem txStep_of_more {b : Byte} (hfree : t.Free) (hf : t.thrFull = true) (hmore : t.txCur + 1#32 ≠ t.txEnd)
    (hm : memGet m (t.txCur + 1#32).toNat = some b) :
    txStep m t = .ok ({ txLoad t with txCur := t.txCur + 1#32, thr := b, thrFull := true }, false) := by
  rw [txStep_of_load hfree hf]
  obtain ⟨hlast, -⟩ | ⟨-, b', hm', e⟩ | ⟨-, hm', -⟩ := txe_cases m (txLoad t)
  · exact absurd hlast hmore
  · cases hm.symm.trans hm'
    exact e
  · cases hm.symm.trans hm'

/-- The byte left to read is not admitted (R189). -/
theorem txStep_of_unreadable (hfree : t.Free) (hf : t.thrFull = true) (hmore : t.txCur + 1#32 ≠ t.txEnd)
    (hm : memGet m (t.txCur + 1#32).toNat = none) :
    txStep m t = .error { code := .memRead, info := (t.txCur + 1#32).setWidth 64 } := by
  rw [txStep_of_load hfree hf]
  obtain ⟨hlast, -⟩ | ⟨-, b', hm', -⟩ | ⟨-, -, e⟩ := txe_cases m (txLoad t)
  · exact absurd hlast hmore
  · cases hm.symm.trans hm'
  · exact e

end

/-- A strobe that leaves TXDONE as it was. -/
theorem exec_evtBaud16_quiet {s : State} {x : UartTx} (hh : s.hof.halted = false)
    (h : txStep s.mem s.tx = .ok (x, false)) :
    ∃ t, exec .evtBaud16 s = .next t ∧ t.tx = x ∧ t.hof.irqLat[1] = s.hof.irqLat[1] := by
  obtain ⟨t, ht, k⟩ := exec_evtBaud16_strobed hh h
  exact ⟨t, ht, k.tx, k.txDone.trans (Bool.or_false _)⟩

/-- Settles O29: case by case, what the shifter does, and TXE where it takes the waiting byte. -/
theorem transmitStrobe : Obligations.TransmitStrobe := by
  intro s hh hbit
  refine ⟨fun ha hp => ?_, fun ha hp h9 => ?_, fun ha hend hf => ?_, fun ha hf => ?_, fun hfree hf hlast => ?_,
    fun b hfree hf hmore hm => ?_, fun hfree hf hmore hm => ?_⟩
  · exact exec_evtBaud16_quiet hh (txStep_of_shift (txShift_of_counting ha hp) (.inl ha))
  · have hnext := txShift_of_bitEnd ha hp h9
    rw [frameBit_add_one _ (by bv_omega)] at hnext
    exact exec_evtBaud16_quiet hh (txStep_of_shift hnext (.inl ha))
  · obtain ⟨hp, h9⟩ := hend
    exact exec_evtBaud16_quiet hh (txStep_of_shift (txShift_of_frameEnd ha hp h9) (.inr hf))
  · exact exec_evtBaud16_quiet hh (txStep_of_shift (txShift_of_idle ha) (.inr hf))
  · obtain ⟨t, ht, k⟩ := exec_evtBaud16_strobed hh (txStep_of_last hfree hf hlast)
    exact ⟨t, ht, k.tx, k.txDone.trans (Bool.or_true _), k.running⟩
  · obtain ⟨t, ht, k⟩ := exec_evtBaud16_strobed hh (txStep_of_more hfree hf hmore hm)
    exact ⟨t, ht, k.tx, k.txDone.trans (Bool.or_false _), k.running⟩
  · exact evtBaud16_faults hh (txStep_of_unreadable hfree hf hmore hm)

end Sys2Proof.Machine
end

section
/-! A frame on the wire, strobe by strobe (42_uart.md R187, R188). -/

namespace Sys2Proof.Machine

theorem strobes_succ (i : Instr) (n : Nat) (s : State) : strobes i (n + 1) s = after i (strobes i n s) :=
  strobes_add i n 1 s

/-- The levels of a frame by the number of its bit (30_encoding.md R93). -/
theorem frameBit_ofNat (b : Byte) {j : Nat} (hj : j ≤ 9) :
    frameBit b (BitVec.ofNat 4 j) = if j = 0 then false else if j = 9 then true else b.getLsbD (j - 1) := by
  cases j with
  | zero => rfl
  | succ j =>
    have hnat : (BitVec.ofNat 4 j).toNat = j := toNat_ofNat_of_lt (by omega)
    have h8 : BitVec.ofNat 4 j = 8#4 ↔ j + 1 = 9 := by bv_omega
    rw [BitVec.ofNat_add, frameBit_add_one b (by omega), hnat]
    simp only [h8, Nat.succ_ne_zero, if_false, Nat.add_sub_cancel]

/-- The start bit of the byte in the shifter has just begun. -/
structure UartTx.FrameStart (t : UartTx) : Prop where
  act : t.txAct = true
  bit : t.txBit = 0#4
  pre : t.txPre = 0#4
  txd : t.txd = false

/-- The transmit half `i` strobes into the frame that starts in `t`. -/
def UartTx.frameAt (t : UartTx) (i : Nat) : UartTx :=
  { t with
    txBit := BitVec.ofNat 4 (i / 16)
    txPre := BitVec.ofNat 4 (i % 16)
    txd := frameBit t.tsr (BitVec.ofNat 4 (i / 16)) }

section
variable {x : UartTx} {i : Nat}

theorem UartTx.FrameStart.frameAt_zero (f : x.FrameStart) : x.frameAt 0 = x := by
  obtain ⟨busy, cur, stop, thr, full, tsr, act, bit, pre, txd⟩ := x
  obtain rfl : bit = 0#4 := f.bit
  obtain rfl : pre = 0#4 := f.pre
  obtain rfl : txd = false := f.txd
  rfl

/-- Every strobe of a frame but the last goes on within the bit or to the next bit. -/
theorem UartTx.FrameStart.txShift_frameAt (f : x.FrameStart) (hi : i + 1 < 160) :
    txShift (x.frameAt i) = x.frameAt (i + 1) := by
  by_cases hend : i % 16 = 15
  · have hpre : (x.frameAt i).txPre = 15#4 := congrArg (BitVec.ofNat 4) hend
    have hbit : (x.frameAt i).txBit ≠ 9#4 := by
      show BitVec.ofNat 4 (i / 16) ≠ 9#4
      bv_omega
    rw [txShift_of_bitEnd (t := x.frameAt i) f.act hpre hbit, frameAt, frameAt, show (i + 1) / 16 = i / 16 + 1 by omega,
      show (i + 1) % 16 = 0 by omega, BitVec.ofNat_add]
  · have hpre : (x.frameAt i).txPre ≠ 15#4 := by
      show BitVec.ofNat 4 (i % 16) ≠ 15#4
      bv_omega
    rw [txShift_of_counting (t := x.frameAt i) f.act hpre, frameAt, frameAt, show (i + 1) / 16 = i / 16 by omega,
      show (i + 1) % 16 = i % 16 + 1 by omega, BitVec.ofNat_add (x := i % 16)]

end

/-- `t` is `i` strobes into the frame that starts in `s`. -/
structure InFrame (s : State) (i : Nat) (t : State) : Prop where
  running : t.hof.halted = false
  tx : t.tx = s.tx.frameAt i
  txDone : t.hof.irqLat[1] = s.hof.irqLat[1]
  mem : t.mem = s.mem

section
variable {s t : State} {i : Nat}

theorem InFrame.strobe (k : InFrame s i t) (f : s.tx.FrameStart) (hi : i + 1 < 160) :
    InFrame s (i + 1) (after .evtBaud16 t) := by
  have hshift : txShift t.tx = s.tx.frameAt (i + 1) := by rw [k.tx, f.txShift_frameAt hi]
  have h := strobed_after k.running (txStep_of_shift hshift (.inl f.act))
  exact ⟨h.running, h.tx, (h.txDone.trans (Bool.or_false _)).trans k.txDone, h.mem.trans k.mem⟩

theorem inFrame_strobes (hh : s.hof.halted = false) (f : s.tx.FrameStart) (hi : i < 160) :
    InFrame s i (strobes .evtBaud16 i s) := by
  induction i with
  | zero => exact ⟨hh, f.frameAt_zero.symm, rfl, rfl⟩
  | succ i ih =>
    rw [strobes_succ]
    exact (ih (by omega)).strobe f hi

/-- With nothing more to send, strobe 160 leaves the shifter idle and the line high. -/
theorem tx_strobes_160_of_empty (hh : s.hof.halted = false) (f : s.tx.FrameStart) (hf : s.tx.thrFull = false) :
    (strobes .evtBaud16 160 s).tx =
      { s.tx with txBit := 0#4, txPre := 0#4, txAct := false, txd := true } := by
  have last := inFrame_strobes hh f (i := 159) (by decide)
  have hshift : txShift (strobes .evtBaud16 159 s).tx =
      { s.tx with txBit := 0#4, txPre := 0#4, txAct := false, txd := true } := by
    rw [last.tx]
    exact txShift_of_frameEnd f.act rfl rfl
  rw [strobes_succ _ 159]
  exact (strobed_after last.running (txStep_of_shift hshift (.inr hf))).tx

end

theorem TxInv.frameStart {x : UartTx} (k : TxInv x) (ha : x.txAct = true) (hb : x.txBit = 0#4) (hp : x.txPre = 0#4) :
    x.FrameStart :=
  ⟨ha, hb, hp, (k.line ha).trans (by rw [hb]; rfl)⟩

/-- Settles O31: the frame bit of each strobe, and the strobe that ends the frame. -/
theorem frameOnTheWire : Obligations.FrameOnTheWire := by
  intro s inv hh ha hb hp
  have f := inv.tx.frameStart ha hb hp
  refine ⟨fun j k hj hk => ?_, fun hf => ?_⟩
  · rw [(inFrame_strobes hh f (i := 16 * j + k) (by omega)).tx]
    have hbit : (16 * j + k) / 16 = j := by omega
    exact (congrArg (frameBit s.tx.tsr <| BitVec.ofNat 4 ·) hbit).trans (frameBit_ofNat _ hj)
  · rw [tx_strobes_160_of_empty hh f hf]
    exact ⟨rfl, rfl⟩

end Sys2Proof.Machine
end

section
/-! A whole transfer (42_uart.md R182, R188; 20_memory.md R65): byte `k` waits, is loaded at strobe 160·k + 1, and its frame
gives way to byte `k + 1`. -/

namespace Sys2Proof.Machine

/-- A buffer of admitted bytes that does not wrap. -/
structure Buffer (m : Memory) where
  start : Addr
  len : BitVec 16
  bytes : Nat → Byte
  fits : start.toNat + len.toNat ≤ 0xFFFFFFFF
  admitted : ∀ k, k < len.toNat → memGet m (start.toNat + k) = some (bytes k)

/-- Byte `k` of the buffer waits for the shifter. -/
structure ByteWaits {m : Memory} (buf : Buffer m) (k : Nat) (x : UartTx) : Prop where
  busy : x.txBusy = true
  full : x.thrFull = true
  thr : x.thr = buf.bytes k
  cur : x.txCur.toNat = buf.start.toNat + k
  stop : x.txEnd.toNat = buf.start.toNat + buf.len.toNat

/-- Byte `k` of the buffer was just loaded, and byte `k + 1`, if there is one, was read. -/
structure ByteLoaded {m : Memory} (buf : Buffer m) (k : Nat) (x : UartTx) : Prop where
  frame : x.FrameStart
  tsr : x.tsr = buf.bytes k
  cur : x.txCur.toNat = buf.start.toNat + k + 1
  stop : x.txEnd.toNat = buf.start.toNat + buf.len.toNat
  busy : x.txBusy = decide (k + 1 < buf.len.toNat)
  full : x.thrFull = decide (k + 1 < buf.len.toNat)
  thr : k + 1 < buf.len.toNat → x.thr = buf.bytes (k + 1)

section
variable {m : Memory} {buf : Buffer m} {k : Nat} {x : UartTx}

/-- The load of byte `k` and its TXE (R189). -/
theorem ByteWaits.txStep (w : ByteWaits buf k x) (hfree : x.Free) (hk : k < buf.len.toNat) :
    ∃ y, txStep m x = .ok (y, decide (k + 1 = buf.len.toNat)) ∧ ByteLoaded buf k y := by
  have hcur : (x.txCur + 1#32).toNat = buf.start.toNat + k + 1 := by
    rw [toNat_add_one_of_lt (b := x.txEnd) (by rw [w.cur, w.stop]; omega), w.cur]
  have frame : (txLoad x).FrameStart := ⟨rfl, rfl, rfl, rfl⟩
  by_cases hlast : k + 1 = buf.len.toNat
  · have hend : x.txCur + 1#32 = x.txEnd := BitVec.eq_of_toNat_eq (by rw [hcur, w.stop]; omega)
    have hless : decide (k + 1 < buf.len.toNat) = false := decide_eq_false (by omega)
    rw [decide_eq_true hlast]
    exact ⟨_, txStep_of_last hfree w.full hend, { frame with }, w.thr, hcur, w.stop, hless.symm, hless.symm,
      fun h => absurd hlast h.ne⟩
  · have hmore : x.txCur + 1#32 ≠ x.txEnd := fun h => by
      have hend := congrArg BitVec.toNat h
      rw [hcur, w.stop] at hend
      omega
    have hbyte : memGet m (x.txCur + 1#32).toNat = some (buf.bytes (k + 1)) := by
      rw [hcur, Nat.add_assoc]
      exact buf.admitted (k + 1) (by omega)
    have hless : decide (k + 1 < buf.len.toNat) = true := decide_eq_true (by omega)
    rw [decide_eq_false hlast]
    exact ⟨_, txStep_of_more hfree w.full hmore hbyte, { frame with }, w.thr, hcur, w.stop, w.busy.trans hless.symm,
      hless.symm, fun _ => rfl⟩

/-- All through the frame of byte `k`, byte `k + 1` waits. -/
theorem ByteLoaded.waits_frameAt (l : ByteLoaded buf k x) (hk : k + 1 < buf.len.toNat) (i : Nat) :
    ByteWaits buf (k + 1) (x.frameAt i) :=
  have hless : decide (k + 1 < buf.len.toNat) = true := decide_eq_true hk
  ⟨l.busy.trans hless, l.full.trans hless, l.thr hk, l.cur, l.stop⟩

end

/-- The block runs and has loaded byte `k`; TXDONE is set if that was the last one. -/
structure Loaded {m : Memory} (buf : Buffer m) (k : Nat) (t : State) : Prop where
  running : t.hof.halted = false
  mem : t.mem = m
  tx : ByteLoaded buf k t.tx
  txDone : t.hof.irqLat[1] = decide (k + 1 = buf.len.toNat)

section
variable {m : Memory} {buf : Buffer m} {k : Nat} {s t : State}

theorem loaded_after (hh : t.hof.halted = false) (hm : t.mem = m) (w : ByteWaits buf k t.tx) (hfree : t.tx.Free)
    (hd : t.hof.irqLat[1] = false) (hk : k < buf.len.toNat) : Loaded buf k (after .evtBaud16 t) := by
  subst hm
  obtain ⟨x, hx, l⟩ := w.txStep hfree hk
  have h := strobed_after hh hx
  exact ⟨h.running, h.mem, h.tx ▸ l, h.txDone.trans (by rw [hd, Bool.false_or])⟩

/-- The strobe that ends the frame of byte `k` loads byte `k + 1`. -/
theorem Loaded.next (l : Loaded buf k s) (h : InFrame s 159 t) (hk : k + 1 < buf.len.toNat) :
    Loaded buf (k + 1) (after .evtBaud16 t) := by
  have hfree : (s.tx.frameAt 159).Free := .inr ⟨rfl, rfl⟩
  have hd : t.hof.irqLat[1] = false := (h.txDone.trans l.txDone).trans (decide_eq_false hk.ne)
  exact loaded_after h.running (h.mem.trans l.mem) (h.tx ▸ l.tx.waits_frameAt hk 159) (h.tx ▸ hfree) hd hk

/-- Byte `k` is loaded `160 * k` strobes after byte 0. -/
theorem Loaded.strobes (l : Loaded buf 0 s) (hk : k < buf.len.toNat) :
    Loaded buf k (strobes .evtBaud16 (160 * k) s) := by
  induction k with
  | zero => exact l
  | succ k ih =>
    have lk := ih (by omega)
    rw [show 160 * (k + 1) = 160 * k + 159 + 1 by omega, strobes_succ, strobes_add]
    exact lk.next (inFrame_strobes lk.running lk.tx.frame (by decide)) hk

end

theorem after_uartTx_of_accepted {s : State} {p : Addr} {n : BitVec 16} {b : Byte} (hh : s.hof.halted = false)
    (hb : s.tx.txBusy = false) (hn : n ≠ 0#16) (hw : bufWraps p n = false) (hm : memGet s.mem p.toNat = some b) :
    after (.uartTx p n) s =
      ((s.setTx (txStart p n b s.tx)).setHof (unlatch s.hof latTxDone)).respond 0#32 := by
  rw [after, exec_uartTx_of_accepted hh hb hn hw hm]

/-- An accepted UART_TX on an idle shifter: the first byte waits, and TXDONE is clear (R181). -/
theorem loaded_of_uartTx {s : State} (buf : Buffer s.mem) (hh : s.hof.halted = false) (hb : s.tx.txBusy = false)
    (ha : s.tx.txAct = false) (h0 : 0 < buf.len.toNat) :
    Loaded buf 0 (after .evtBaud16 (after (.uartTx buf.start buf.len) s)) := by
  have hn : buf.len ≠ 0#16 := by bv_omega
  have hw : bufWraps buf.start buf.len = false := bufWraps_eq_false_iff.mpr buf.fits
  rw [after_uartTx_of_accepted hh hb hn hw (buf.admitted 0 h0)]
  exact loaded_after hh rfl ⟨rfl, rfl, rfl, rfl, toNat_bufEnd hw⟩ (.inl ha) (by simp [unlatch, latTxDone]) h0

/-- Settles O32, by induction on the byte: its load, its frame, and the next load. -/
theorem uartTransferSendsTheBuffer : Obligations.UartTransferSendsTheBuffer := by
  intro s p n bytes _ hh hb ha hfits hbytes k hk
  let buf : Buffer s.mem := ⟨p, n, bytes, hfits, hbytes⟩
  have first : Loaded buf 0 (strobes .evtBaud16 1 (after (.uartTx p n) s)) :=
    loaded_of_uartTx buf hh hb ha ((Nat.zero_le k).trans_lt hk)
  have l := first.strobes hk
  rw [← strobes_add, Nat.add_comm] at l
  exact ⟨l.running, l.tx.tsr, l.tx.frame.act, l.tx.frame.bit, l.tx.frame.pre, l.tx.frame.txd, l.tx.cur, l.tx.busy,
    l.txDone⟩

end Sys2Proof.Machine
end

section
/-! The receive half strobe by strobe (42_uart.md R195 to R199). -/

namespace Sys2Proof.Machine

/-- The count at which a state of the receive machine looks at the line: the middle of the start bit, or a whole bit on
from the last look (R197 to R199). -/
def sampleCount : RxState → BitVec 4
  | .start => 7#4
  | _ => 15#4

section
variable {c : Cfg} {rxd : Bool} {r : UartRx}

theorem rxStep_of_idle (hs : r.rxSt = .idle) :
    rxStep c rxd r = (if r.rxPrev = true ∧ rxd = false
      then { r with rxSt := .start, rxCnt := 0#4, rxPrev := rxd } else { r with rxPrev := rxd }, false) := by
  cases hp : r.rxPrev <;> cases rxd <;> simp [rxStep, rxMachine, rxIdle, hs, hp]

/-- Between two looks at the line a strobe only counts. -/
theorem rxStep_of_counting (hs : r.rxSt ≠ .idle) (hc : r.rxCnt ≠ sampleCount r.rxSt) :
    rxStep c rxd r = ({ r with rxCnt := r.rxCnt + 1#4, rxPrev := rxd }, false) := by
  cases hst : r.rxSt with
  | idle => exact absurd hst hs
  | start =>
    have h7 : r.rxCnt ≠ 7#4 := by simpa [hst, sampleCount] using hc
    simp [rxStep, rxMachine, rxStart, hst, h7]
  | data =>
    have h15 : r.rxCnt ≠ 15#4 := by simpa [hst, sampleCount] using hc
    simp [rxStep, rxMachine, rxData, hst, h15]
  | stop =>
    have h15 : r.rxCnt ≠ 15#4 := by simpa [hst, sampleCount] using hc
    simp [rxStep, rxMachine, rxStop, hst, h15]

theorem rxStep_of_startSample (hs : r.rxSt = .start) (hc : r.rxCnt = 7#4) :
    rxStep c rxd r = (if rxd = false then { r with rxSt := .data, rxCnt := 0#4, rxBit := 0#3, rxPrev := rxd }
      else { r with rxSt := .idle, rxPrev := rxd }, false) := by
  cases rxd <;> simp [rxStep, rxMachine, rxStart, hs, hc]

theorem rxStep_of_dataSample (hs : r.rxSt = .data) (hc : r.rxCnt = 15#4) :
    rxStep c rxd r = (if r.rxBit = 7#3
      then { r with rxCnt := 0#4, rxSh := rxPut r.rxSh r.rxBit rxd, rxSt := .stop, rxPrev := rxd }
      else { r with rxCnt := 0#4, rxSh := rxPut r.rxSh r.rxBit rxd, rxBit := r.rxBit + 1#3, rxPrev := rxd }, false) := by
  by_cases hb : r.rxBit = 7#3
  · simp [rxStep, rxMachine, rxData, hs, hc, hb]
  · simp [rxStep, rxMachine, rxData, hs, hc, hb]

/-- The stop bit with no place in the queue (R199, R202). -/
theorem rxStep_of_stopSample_full (hs : r.rxSt = .stop) (hc : r.rxCnt = 15#4) (hq : r.rxq.count.toNat = c.rxqCap) :
    rxStep c rxd r =
      ({ r with rxCnt := 0#4, rxSt := .idle, rxPrev := rxd, fe := r.fe || !rxd, oe := true }, true) := by
  simp [rxStep, rxMachine, rxStop, queueFull, hs, hc, hq]

/-- The stop bit with a place in the queue (R199, R201). -/
theorem rxStep_of_stopSample_room (hs : r.rxSt = .stop) (hc : r.rxCnt = 15#4) (hq : r.rxq.count.toNat ≠ c.rxqCap) :
    rxStep c rxd r =
      ({ r with
          rxCnt := 0#4
          rxSt := .idle
          rxPrev := rxd
          fe := r.fe || !rxd
          rxq := enq c.rxqCap r.rxq r.rxSh }, !rxd) := by
  simp [rxStep, rxMachine, rxStop, queueFull, hs, hc, hq]

/-- RXERR rises exactly with a framing error or an overflow (R199). -/
theorem rxStep_err_iff :
    (rxStep c rxd r).2 = true ↔
      r.rxSt = .stop ∧ r.rxCnt = 15#4 ∧ (rxd = false ∨ r.rxq.count.toNat = c.rxqCap) := by
  by_cases h : r.rxSt = .stop ∧ r.rxCnt = 15#4
  · obtain ⟨hs, hc⟩ := h
    by_cases hq : r.rxq.count.toNat = c.rxqCap
    · simp [rxStep_of_stopSample_full hs hc hq, hs, hc, hq]
    · simp [rxStep_of_stopSample_room hs hc hq, hs, hc, hq]
  · exact iff_of_false (mt rxStep_err h) fun ⟨hs, hc, _⟩ => h ⟨hs, hc⟩

/-- A byte that finds a place is the last of the delivery order. -/
theorem RxInv.queueList_enq (k : RxInv c r) (hcap : c.rxqCap ≤ 15) (hq : r.rxq.count.toNat ≠ c.rxqCap) (b : Byte) :
    queueList c.rxqCap (enq c.rxqCap r.rxq b) = queueList c.rxqCap r.rxq ++ [b] :=
  have ⟨_, _, hlist⟩ := enq_spec b (lt_of_le_of_ne k.queue.count_le hq) hcap k.queue.head_lt
  hlist

end

/-- The shift register with the bit that is sampled now. -/
theorem getElem_rxPut_fin (sh : Byte) (k : BitVec 3) (b : Bool) (j : Fin 8) :
    (rxPut sh k b)[j] = if j.val = k.toNat then b else sh[j] := by
  simp [Fin.ext_iff]

/-- Settles O30: state by state, counting or looking at the line; and RXERR. -/
theorem receiveStrobe : Obligations.ReceiveStrobe := by
  intro s t inv hh h ht
  obtain ⟨-, -, -, hcap⟩ := Cfg.wf_ranges inv.config
  obtain ⟨x, done, -, k⟩ := strobed_of_running hh h ht
  refine ⟨fun hs => ?_, fun hs => ?_, fun hs hc => ?_, fun hs hc => ?_, fun hs hc => ?_, fun hs hc hfull => ?_,
    fun hs hc hroom => ?_, ?_⟩
  · rw [k.rx, rxStep_of_idle hs]
  · rw [k.rx]
    by_cases hc : s.rx.rxCnt = 7#4
    · rw [rxStep_of_startSample hs hc, if_neg (not_not_intro hc)]
    · rw [rxStep_of_counting (by simp [hs]) (by simpa [hs, sampleCount] using hc), if_pos hc]
  · rw [k.rx, rxStep_of_counting (by simp [hs]) (by simpa [hs, sampleCount] using hc)]
  · refine ⟨rxPut s.rx.rxSh s.rx.rxBit s.inp.rxd, getElem_rxPut_fin _ _ _, ?_⟩
    rw [k.rx, rxStep_of_dataSample hs hc]
  · rw [k.rx, rxStep_of_counting (by simp [hs]) (by simpa [hs, sampleCount] using hc)]
  · rw [k.rx, rxStep_of_stopSample_full hs hc hfull]
  · refine ⟨enq s.cfg.rxqCap s.rx.rxq s.rx.rxSh, ?_, inv.rx.queueList_enq hcap hroom _⟩
    rw [k.rx, rxStep_of_stopSample_room hs hc hroom]
  · rw [k.rxErr, Bool.or_eq_true, rxStep_err_iff]

end Sys2Proof.Machine
end

section
/-! The timing of a received byte (42_uart.md R203), on the receive half alone. -/

namespace Sys2Proof.Machine

/-- The receive half after `n` strobes with the line at level `l k` in strobe `k`. -/
def rxAfter (c : Cfg) (l : Nat → Bool) (r : UartRx) : Nat → UartRx
  | 0 => r
  | n + 1 => (rxStep c (l (n + 1)) (rxAfter c l r n)).1

/-- The transmitter stays idle, and the receive half moves alone. -/
structure Listening (s : State) (r : UartRx) (t : State) : Prop where
  running : t.hof.halted = false
  tx : t.tx = s.tx
  cfg : t.cfg = s.cfg
  rx : t.rx = r

theorem Listening.round {s t : State} {r : UartRx} (k : Listening s r t) (ha : s.tx.txAct = false)
    (hf : s.tx.thrFull = false) (b : Bool) :
    Listening s (rxStep s.cfg b r).1 (after .evtBaud16 (after (.evtRxd b) t)) := by
  have hwire : after (.evtRxd b) t = t.setInp { t.inp with rxd := b } := by rw [after, exec_evtRxd]
  have hidle : txStep t.mem t.tx = .ok (t.tx, false) := by
    rw [k.tx]
    exact txStep_of_shift (txShift_of_idle ha) (.inr hf)
  rw [hwire]
  have h := strobed_after (s := t.setInp { t.inp with rxd := b }) k.running hidle
  refine ⟨h.running, h.tx.trans k.tx, h.cfg.trans k.cfg, h.rx.trans ?_⟩
  rw [← k.cfg, ← k.rx]
  rfl

theorem listening_rxRounds {s : State} (hh : s.hof.halted = false) (ha : s.tx.txAct = false)
    (hf : s.tx.thrFull = false) (l : Nat → Bool) (n : Nat) :
    Listening s (rxAfter s.cfg l s.rx n) (rxRounds l n s) := by
  induction n with
  | zero => exact ⟨hh, rfl, rfl, rfl⟩
  | succ n ih => exact ih.round ha hf (l (n + 1))

section
variable {c : Cfg} {l : Nat → Bool} {r x : UartRx} {n j : Nat}

/-- From a count of 0 the strobes up to the next look at the line only count. -/
theorem rxAfter_counting (hs : (rxAfter c l r n).rxSt ≠ .idle) (hc : (rxAfter c l r n).rxCnt = 0#4) {k : Nat}
    (hk : k ≤ (sampleCount (rxAfter c l r n).rxSt).toNat) :
    ∃ p, rxAfter c l r (n + k) = { rxAfter c l r n with rxCnt := BitVec.ofNat 4 k, rxPrev := p } := by
  induction k with
  | zero => exact ⟨(rxAfter c l r n).rxPrev, by rw [← hc]; rfl⟩
  | succ k ih =>
    obtain ⟨p, hp⟩ := ih (by omega)
    have hne : BitVec.ofNat 4 k ≠ sampleCount (rxAfter c l r n).rxSt := by
      intro h
      rw [← h] at hk
      have hle : (BitVec.ofNat 4 k).toNat ≤ k := Nat.mod_le _ _
      omega
    refine ⟨l (n + k + 1), ?_⟩
    rw [← Nat.add_assoc, rxAfter, hp,
      rxStep_of_counting (r := { rxAfter c l r n with rxCnt := BitVec.ofNat 4 k, rxPrev := p }) hs hne, BitVec.ofNat_add]

/-- Strobe 8 looks at the start bit. -/
theorem rxAfter_8 (hs : r.rxSt = .start) (hc : r.rxCnt = 0#4) :
    rxAfter c l r 8 =
      if l 8 = false then { r with rxSt := .data, rxCnt := 0#4, rxBit := 0#3, rxPrev := l 8 }
      else { r with rxSt := .idle, rxCnt := 7#4, rxPrev := l 8 } := by
  obtain ⟨p, hp⟩ := rxAfter_counting (c := c) (l := l) (r := r) (n := 0) (k := 7) (by simp [rxAfter, hs]) hc
    (by simp [rxAfter, hs, sampleCount])
  show (rxStep c (l 8) (rxAfter c l r (0 + 7))).1 = _
  rw [hp]
  rw [rxStep_of_startSample (r := { rxAfter c l r 0 with rxCnt := 7#4, rxPrev := p }) hs rfl]
  rfl

/-- Right after a look at the line `j` data bits are taken; after the eighth the stop bit is next. -/
structure BitsTaken (l : Nat → Bool) (r : UartRx) (j : Nat) (x : UartRx) : Prop where
  st : x.rxSt = if j = 8 then .stop else .data
  cnt : x.rxCnt = 0#4
  bit : j ≤ 7 → x.rxBit.toNat = j
  bits : ∀ i : Fin 8, i.val < j → x.rxSh[i] = l (24 + 16 * i.val)
  rxq : x.rxq = r.rxq
  fe : x.fe = r.fe

/-- After a look at the line, up to 15 strobes only count. -/
theorem BitsTaken.counting (k : BitsTaken l r j (rxAfter c l r n)) {m : Nat} (hm : m ≤ 15) :
    ∃ p, rxAfter c l r (n + m) = { rxAfter c l r n with rxCnt := BitVec.ofNat 4 m, rxPrev := p } := by
  refine rxAfter_counting ?_ k.cnt ?_
  · rw [k.st]
    split <;> simp
  · rw [k.st]
    split <;> simpa [sampleCount] using hm

/-- The sample of data bit `j` (R198). -/
theorem BitsTaken.sample (k : BitsTaken l r j x) (hj : j ≤ 7) (p : Bool) :
    BitsTaken l r (j + 1) (rxStep c (l (24 + 16 * j)) { x with rxCnt := 15#4, rxPrev := p }).1 := by
  have hs : x.rxSt = .data := k.st.trans (if_neg (by omega))
  have hbit := k.bit hj
  have bits (i : Fin 8) (hi : i.val < j + 1) :
      (rxPut x.rxSh x.rxBit (l (24 + 16 * j)))[i] = l (24 + 16 * i.val) := by
    rw [getElem_rxPut_fin, hbit]
    split
    next h => rw [h]
    next h => exact k.bits i (by omega)
  rw [rxStep_of_dataSample (r := { x with rxCnt := 15#4, rxPrev := p }) hs rfl]
  by_cases h7 : x.rxBit = 7#3
  · obtain rfl : 7 = j := by rw [← hbit, h7]; rfl
    rw [if_pos h7]
    exact ⟨rfl, rfl, fun h => absurd h (by decide), bits, k.rxq, k.fe⟩
  · have hlt : j ≤ 6 := by bv_omega
    rw [if_neg h7]
    exact ⟨hs.trans (if_neg (by omega)).symm, rfl, fun _ => by show (x.rxBit + 1#3).toNat = j + 1; bv_omega, bits, k.rxq,
      k.fe⟩

/-- Data bit `j` is the level in strobe 24 + 16·j. -/
theorem bitsTaken_rxAfter (hs : r.rxSt = .start) (hc : r.rxCnt = 0#4) (h8 : l 8 = false) (hj : j ≤ 8) :
    BitsTaken l r j (rxAfter c l r (8 + 16 * j)) := by
  induction j with
  | zero =>
    rw [Nat.mul_zero, Nat.add_zero, rxAfter_8 hs hc, if_pos h8]
    exact ⟨rfl, rfl, fun _ => rfl, fun i hi => absurd hi (Nat.not_lt_zero _), rfl, rfl⟩
  | succ j ih =>
    have k := ih (by omega)
    obtain ⟨p, hp⟩ := k.counting (m := 15) le_rfl
    rw [show 8 + 16 * (j + 1) = 8 + 16 * j + 15 + 1 by omega, rxAfter, hp,
      show 8 + 16 * j + 15 + 1 = 24 + 16 * j by omega]
    exact k.sample (by omega) p

/-- The look at the stop bit, 16 strobes after the last data bit, delivers the byte if the queue has a place (R199). -/
theorem BitsTaken.deliver (k : BitsTaken l r 8 (rxAfter c l r n)) (hq : r.rxq.count.toNat ≠ c.rxqCap) :
    (rxAfter c l r (n + 15)).rxq = r.rxq ∧
      rxAfter c l r (n + 16) =
        { rxAfter c l r n with
          rxCnt := 0#4
          rxSt := .idle
          rxPrev := l (n + 16)
          fe := r.fe || !l (n + 16)
          rxq := enq c.rxqCap r.rxq (rxAfter c l r n).rxSh } := by
  obtain ⟨p, hp⟩ := k.counting (m := 15) le_rfl
  constructor
  · rw [hp]
    exact k.rxq
  · rw [rxAfter, hp,
      rxStep_of_stopSample_room (r := { rxAfter c l r n with rxCnt := 15#4, rxPrev := p }) k.st rfl (k.rxq ▸ hq), ← k.fe,
      ← k.rxq]

end

/-- Settles O33: the look at the start bit, the eight data bits, and the look at the stop bit. -/
theorem receivedByteIsTheMidBitSamples : Obligations.ReceivedByteIsTheMidBitSamples := by
  intro s l inv hh hs hc hb ha hroom
  obtain ⟨-, -, -, hcap⟩ := Cfg.wf_ranges inv.config
  have hf : s.tx.thrFull = false := inv.tx.busy_full.symm.trans hb
  have hrx (n : Nat) : (rxRounds l n s).rx = rxAfter s.cfg l s.rx n := (listening_rxRounds hh ha hf l n).rx
  refine ⟨fun h8 => ?_, fun h8 => ?_⟩
  · rw [hrx, rxAfter_8 hs hc, h8]
    rfl
  · have k : BitsTaken l s.rx 8 (rxAfter s.cfg l s.rx 136) := bitsTaken_rxAfter hs hc h8 le_rfl
    obtain ⟨hbefore, hdone⟩ := k.deliver hroom
    have hrx152 := (hrx 152).trans hdone
    refine ⟨(congrArg UartRx.rxq (hrx 151)).trans hbefore, _, fun j => k.bits j j.isLt, congrArg UartRx.rxSt hrx152,
      congrArg UartRx.fe hrx152, ?_⟩
    rw [hrx152]
    exact inv.rx.queueList_enq hcap hroom _

end Sys2Proof.Machine
end

section
/-! The I2C commands (43_i2c.md R232 to R234): their checks in the order of 60_exceptions.md R307, and the armed
transaction. -/

namespace Sys2Proof.Machine

section
variable {s : State} {x : Byte} {p : Addr} {n : BitVec 16}

/-! ## The handlers -/

theorem i2cSetsaHandler_of_busy (hb : s.i2c.i2cBusy = true) :
    i2cSetsaHandler x s = .error { code := .i2cBusy, info := (Command.i2cSetsa x).word } := by
  rw [i2cSetsaHandler, if_pos hb]

theorem i2cSetsaHandler_of_read (hb : s.i2c.i2cBusy = false) (hx : x[0] = true) :
    i2cSetsaHandler x s = .error { code := .i2cRead, info := (Command.i2cSetsa x).word } := by
  simp [i2cSetsaHandler, hb, hx]

theorem i2cSetsaHandler_of_write (hb : s.i2c.i2cBusy = false) (hx : x[0] = false) :
    i2cSetsaHandler x s = .ok ((s.setI2c { s.i2c with msa := x }).respond 0#32) := by
  simp [i2cSetsaHandler, hb, hx]

theorem i2cWriteHandler_of_busy (hb : s.i2c.i2cBusy = true) :
    i2cWriteHandler x p n s = .error { code := .i2cBusy, info := (Command.i2cWrite x p n).word } := by
  rw [i2cWriteHandler, if_pos hb]

theorem i2cWriteHandler_of_wraps (hb : s.i2c.i2cBusy = false) (hw : bufWraps p n = true) :
    i2cWriteHandler x p n s = .error { code := .bufWrap, info := (Command.i2cWrite x p n).word } := by
  simp [i2cWriteHandler, hb, hw]

theorem i2cWriteHandler_of_accepted (hb : s.i2c.i2cBusy = false) (hw : bufWraps p n = false) :
    i2cWriteHandler x p n s = .ok (i2cStart p (bufEnd p n) x (if n = 0#16 then .startRunStop else .startRun) s) := by
  simp [i2cWriteHandler, hb, hw]

theorem i2cWriteOneHandler_of_busy (hb : s.i2c.i2cBusy = true) :
    i2cWriteOneHandler x s = .error { code := .i2cBusy, info := (Command.i2cWriteOne x).word } := by
  rw [i2cWriteOneHandler, if_pos hb]

theorem i2cWriteOneHandler_of_accepted (hb : s.i2c.i2cBusy = false) :
    i2cWriteOneHandler x s = .ok (i2cStart 0#32 0#32 x .startRunStop s) := by
  simp [i2cWriteOneHandler, hb]

/-! ## The commands -/

/-- A command whose handler raises a fault on a block that runs (60_exceptions.md R303). -/
theorem commandFaults_of_handler {h : Except FaultRecord State} {f : FaultRecord} (hh : s.hof.halted = false)
    (hf : h = .error f) : commandFaults (.next (onCommand s h)) s f.code.bits f.info :=
  hf ▸ commandFaults_onCommand_error f hh

theorem exec_i2cSetsa (x : Byte) (s : State) : exec (.i2cSetsa x) s = .next (onCommand s (i2cSetsaHandler x s)) := rfl

theorem exec_i2cWrite (x : Byte) (p : Addr) (n : BitVec 16) (s : State) :
    exec (.i2cWrite x p n) s = .next (onCommand s (i2cWriteHandler x p n s)) := rfl

theorem exec_i2cWriteOne (x : Byte) (s : State) :
    exec (.i2cWriteOne x) s = .next (onCommand s (i2cWriteOneHandler x s)) := rfl

theorem exec_i2cWrite_of_accepted (hh : s.hof.halted = false) (hb : s.i2c.i2cBusy = false) (hw : bufWraps p n = false) :
    exec (.i2cWrite x p n) s =
      .next (i2cStart p (bufEnd p n) x (if n = 0#16 then .startRunStop else .startRun) s) := by
  rw [exec_i2cWrite, i2cWriteHandler_of_accepted hb hw, onCommand_ok _ hh]

theorem exec_i2cWriteOne_of_accepted (hh : s.hof.halted = false) (hb : s.i2c.i2cBusy = false) :
    exec (.i2cWriteOne x) s = .next (i2cStart 0#32 0#32 x .startRunStop s) := by
  rw [exec_i2cWriteOne, i2cWriteOneHandler_of_accepted hb, onCommand_ok _ hh]

/-- An accepted start command as one write of the master, the latches and the response (R233, R234, R251). -/
theorem i2cStart_eq (cur stop : Addr) (byte : Byte) {c : McsCommand} (hc : c.bits[1] = true) (s : State) :
    i2cStart cur stop byte c s =
      { s with
        i2c :=
          { s.i2c with
            i2cCur := cur
            i2cEnd := stop
            mdr := byte
            i2cBusy := true
            pendStop := c.bits[2]
            err := false
            adrack := false
            datack := false
            arblst := false
            seq := .waitbus
            ph := 0#2 }
        hof := { s.hof with irqLat := s.hof.irqLat &&& 0xF7#8 }
        resp := 0#32 } := by
  rw [i2cStart, issue_start c hc, unlatch, show ~~~latI2cDone = 0xF7#8 by decide]
  rfl

end

/-- Settles O37: the word, the two faults in the order of the checks, and the written address. -/
theorem i2cSetsaWritesOrFaults : Obligations.I2cSetsaWritesOrFaults := by
  refine ⟨fun w x => decodeCmd64_eq_cmd_iff_eq rfl rfl w, fun s x hh => ⟨fun hb => ?_, fun hb hx => ?_,
    fun hb hx => ?_⟩⟩
  · exact commandFaults_of_handler hh (i2cSetsaHandler_of_busy hb)
  · exact commandFaults_of_handler hh (i2cSetsaHandler_of_read hb hx)
  · rw [exec_i2cSetsa, i2cSetsaHandler_of_write hb hx, onCommand_ok _ hh]
    rfl

/-- Settles O38: the word, the two faults in the order of the checks, and the armed transaction. -/
theorem i2cWriteArmsOrFaults : Obligations.I2cWriteArmsOrFaults := by
  refine ⟨fun w x p n => decodeCmd64_eq_cmd_iff_eq rfl rfl w, fun s x p n hh => ⟨fun hb => ?_, fun hb hw => ?_,
    fun hb hw => ?_⟩⟩
  · exact commandFaults_of_handler hh (i2cWriteHandler_of_busy hb)
  · exact commandFaults_of_handler hh (i2cWriteHandler_of_wraps hb (bufWraps_eq_true_iff.mpr hw))
  · rw [exec_i2cWrite_of_accepted hh hb (bufWraps_eq_false_iff.mpr hw), ← bufEnd_eq_ofNat]
    by_cases hn : n = 0#16
    · rw [if_pos hn, i2cStart_eq _ _ _ rfl, decide_eq_true hn]
      rfl
    · rw [if_neg hn, i2cStart_eq _ _ _ rfl, decide_eq_false hn]
      rfl

/-- Settles O39: the word, the fault, and the armed transaction. -/
theorem i2cWriteOneArmsOrFaults : Obligations.I2cWriteOneArmsOrFaults := by
  refine ⟨fun w x => decodeCmd64_eq_cmd_iff_eq rfl rfl w, fun s x hh => ⟨fun hb => ?_, fun hb => ?_⟩⟩
  · exact commandFaults_of_handler hh (i2cWriteOneHandler_of_busy hb)
  · rw [exec_i2cWriteOne_of_accepted hh hb, i2cStart_eq _ _ _ rfl]
    rfl

end Sys2Proof.Machine
end

section
/-! I2CQ slot by slot and phase by phase (43_i2c.md R260 to R267): what the sequencer does, and what that makes of the
state. -/

namespace Sys2Proof.Machine

/-! ## I2CQ -/

section
variable {s : State} {m : I2cm} {f : FaultRecord}

theorem exec_evtI2cq_eq (s : State) : exec .evtI2cq s = .next (onStimulus s s (i2cqHandler s)) := rfl

/-- A strobe that does not complete the transaction writes the master only. -/
theorem exec_evtI2cq_of_move (hh : s.hof.halted = false)
    (h : seqStep s.mem (sclLevel s.inp s.i2c) (sdaLevel s.inp s.i2c) s.i2c = .ok (m, false)) :
    exec .evtI2cq s = .next { s with i2c := m } := by
  rw [exec_evtI2cq_eq, i2cqHandler, h, onStimulus_ok _ _ hh]
  rfl

theorem exec_evtI2cq_of_still (hh : s.hof.halted = false)
    (h : seqStep s.mem (sclLevel s.inp s.i2c) (sdaLevel s.inp s.i2c) s.i2c = .ok (s.i2c, false)) :
    exec .evtI2cq s = .next s := exec_evtI2cq_of_move hh h

/-- The strobe that completes the transaction latches I2CDONE too (R250). -/
theorem exec_evtI2cq_of_done (hh : s.hof.halted = false)
    (h : seqStep s.mem (sclLevel s.inp s.i2c) (sdaLevel s.inp s.i2c) s.i2c = .ok (m, true)) :
    exec .evtI2cq s = .next { s with i2c := m, hof := { s.hof with irqLat := s.hof.irqLat ||| 0x08#8 } } := by
  rw [exec_evtI2cq_eq, i2cqHandler, h, onStimulus_ok _ _ hh]
  rfl

/-- A strobe that raises a fault (60_exceptions.md R303). -/
theorem evtI2cq_faults (hh : s.hof.halted = false)
    (h : seqStep s.mem (sclLevel s.inp s.i2c) (sdaLevel s.inp s.i2c) s.i2c = .error f) :
    stimulusFaults (exec .evtI2cq s) s f.code.bits f.info := by
  refine ⟨f :: s.faultLog, ?_⟩
  rw [exec_evtI2cq_eq, i2cqHandler, h, onStimulus_error _ _ hh]
  rfl

end

/-! ## The sequencer's dispatch -/

section
variable {mem : Memory} {scl sda : Bool} {m : I2cm}

theorem seqStep_of_still (hs : m.seq = .idle ∨ m.seq = .hold) : seqStep mem scl sda m = .ok (m, false) := by
  obtain hs | hs := hs <;> rw [seqStep, hs]

theorem seqStep_of_waitbus (hs : m.seq = .waitbus) : seqStep mem scl sda m = .ok (waitbusStep scl sda m, false) := by
  rw [seqStep, hs]

theorem seqStep_of_start (hs : m.seq = .start) : seqStep mem scl sda m = .ok (startStep m, false) := by
  rw [seqStep, hs]

theorem seqStep_of_xmit (hs : m.seq = .xmit) : seqStep mem scl sda m = xmitStep mem scl sda m := by
  rw [seqStep, hs]

theorem seqStep_of_ack (hs : m.seq = .ack) : seqStep mem scl sda m = ackStep mem scl sda m := by
  rw [seqStep, hs]

theorem seqStep_of_stop (hs : m.seq = .stop) : seqStep mem scl sda m = stopStep mem scl m := by
  rw [seqStep, hs]

/-! ## MDONE -/

theorem mdone_of_over (h : m.err = true ∨ m.i2cCur = m.i2cEnd) :
    mdone mem m = .ok ({ m with i2cBusy := false, i2cRes := m.err }, true) := by
  obtain ⟨-, e⟩ | ⟨he, hc, -⟩ | ⟨he, hc, -⟩ := mdone_cases mem m
  · exact e
  · simp [he, hc] at h
  · simp [he, hc] at h

theorem mdone_of_byte {b : Byte} (he : m.err = false) (hc : m.i2cCur ≠ m.i2cEnd)
    (hb : memGet mem m.i2cCur.toNat = some b) :
    mdone mem m =
      .ok
        ({ m with
            mdr := b
            i2cCur := m.i2cCur + 1#32
            pendStop := decide (m.i2cCur + 1#32 = m.i2cEnd)
            sh := b
            kind := .data
            bitn := 7#3
            seq := .xmit
            ph := 0#2 }, false) := by
  obtain ⟨h, -⟩ | ⟨-, -, b', hb', e⟩ | ⟨-, -, hn, -⟩ := mdone_cases mem m
  · simp [he, hc] at h
  · cases hb.symm.trans hb'
    exact e
  · cases hb.symm.trans hn

theorem mdone_of_unreadable (he : m.err = false) (hc : m.i2cCur ≠ m.i2cEnd) (hn : memGet mem m.i2cCur.toNat = none) :
    mdone mem m = .error { code := .memRead, info := m.i2cCur.setWidth 64 } := by
  obtain ⟨h, -⟩ | ⟨-, -, b, hb, -⟩ | ⟨-, -, -, e⟩ := mdone_cases mem m
  · simp [he, hc] at h
  · cases hb.symm.trans hn
  · exact e

/-! ## The START slot -/

theorem startStep_ph0 (hp : m.ph = 0#2) : startStep m = { m with sdaDrv := false, ph := 1#2 } := by
  simp [startStep, hp]

theorem startStep_ph1 (hp : m.ph = 1#2) : startStep m = { m with ph := 2#2 } := by
  simp [startStep, hp]

theorem startStep_ph2 (hp : m.ph = 2#2) : startStep m = { m with ph := 3#2 } := by
  simp [startStep, hp]

theorem startStep_ph3 (hp : m.ph = 3#2) :
    startStep m =
      { m with sclDrv := false, sh := m.msa &&& 0xFE#8, kind := .addr, bitn := 7#3, seq := .xmit, ph := 0#2 } := by
  simp [startStep, hp]

/-! ## The XMIT slot -/

theorem xmitStep_ph0 (hp : m.ph = 0#2) :
    xmitStep mem scl sda m = .ok ({ m with sdaDrv := slotBit m, ph := 1#2 }, false) := by
  simp [xmitStep, hp]

theorem xmitStep_ph1 (hp : m.ph = 1#2) :
    xmitStep mem scl sda m = .ok ({ m with sclDrv := true, ph := 2#2 }, false) := by
  simp [xmitStep, hp]

theorem xmitStep_stretched (hp : m.ph = 2#2) (hscl : scl = false) : xmitStep mem scl sda m = .ok (m, false) := by
  simp [xmitStep, hp, hscl]

/-- Arbitration loss (R264) ends the transaction with an error. -/
theorem xmitStep_lost (hp : m.ph = 2#2) (hscl : scl = true) (hb : slotBit m = true) (hsda : sda = false) :
    xmitStep mem scl sda m =
      .ok ({ arbitrationLost m with i2cBusy := false, i2cRes := true }, true) := by
  have lost : xmitStep mem scl sda m = mdone mem (arbitrationLost m) := by simp [xmitStep, hp, hscl, hb, hsda]
  exact lost.trans (mdone_of_over (.inl rfl))

theorem xmitStep_kept (hp : m.ph = 2#2) (hscl : scl = true) (h : slotBit m = false ∨ sda = true) :
    xmitStep mem scl sda m = .ok ({ m with ph := 3#2 }, false) := by
  obtain h | h := h <;> simp [xmitStep, hp, hscl, h]

theorem xmitStep_last (hp : m.ph = 3#2) (hb : m.bitn = 0#3) :
    xmitStep mem scl sda m = .ok ({ m with sclDrv := false, ph := 0#2, seq := .ack }, false) := by
  simp [xmitStep, hp, hb]

theorem xmitStep_next (hp : m.ph = 3#2) (hb : m.bitn ≠ 0#3) :
    xmitStep mem scl sda m = .ok ({ m with sclDrv := false, ph := 0#2, bitn := m.bitn - 1#3 }, false) := by
  simp [xmitStep, hp, hb]

/-! ## The ACK slot -/

theorem ackStep_ph0 (hp : m.ph = 0#2) : ackStep mem scl sda m = .ok ({ m with sdaDrv := true, ph := 1#2 }, false) := by
  simp [ackStep, hp]

theorem ackStep_ph1 (hp : m.ph = 1#2) : ackStep mem scl sda m = .ok ({ m with sclDrv := true, ph := 2#2 }, false) := by
  simp [ackStep, hp]

theorem ackStep_stretched (hp : m.ph = 2#2) (hscl : scl = false) : ackStep mem scl sda m = .ok (m, false) := by
  simp [ackStep, hp, hscl]

theorem ackStep_acked (hp : m.ph = 2#2) (hscl : scl = true) (hsda : sda = false) :
    ackStep mem scl sda m = .ok ({ m with ph := 3#2 }, false) := by
  simp [ackStep, hp, hscl, hsda]

theorem ackStep_nacked_addr (hp : m.ph = 2#2) (hscl : scl = true) (hsda : sda = true) (hk : m.kind = .addr) :
    ackStep mem scl sda m = .ok ({ m with err := true, adrack := true, ph := 3#2 }, false) := by
  simp [ackStep, nack, hp, hscl, hsda, hk]

theorem ackStep_nacked_data (hp : m.ph = 2#2) (hscl : scl = true) (hsda : sda = true) (hk : m.kind = .data) :
    ackStep mem scl sda m = .ok ({ m with err := true, datack := true, ph := 3#2 }, false) := by
  simp [ackStep, nack, hp, hscl, hsda, hk]

theorem ackStep_err (hp : m.ph = 3#2) (he : m.err = true) :
    ackStep mem scl sda m = .ok ({ m with sclDrv := false, ph := 0#2, seq := .stop }, false) := by
  simp [ackStep, ackEnd, hp, he]

theorem ackStep_addr (hp : m.ph = 3#2) (he : m.err = false) (hk : m.kind = .addr) :
    ackStep mem scl sda m =
      .ok ({ m with sclDrv := false, ph := 0#2, sh := m.mdr, kind := .data, bitn := 7#3, seq := .xmit }, false) := by
  simp [ackStep, ackEnd, hp, he, hk]

theorem ackStep_last (hp : m.ph = 3#2) (he : m.err = false) (hk : m.kind = .data) (hps : m.pendStop = true) :
    ackStep mem scl sda m = .ok ({ m with sclDrv := false, ph := 0#2, seq := .stop }, false) := by
  simp [ackStep, ackEnd, hp, he, hk, hps]

theorem ackStep_more (hp : m.ph = 3#2) (he : m.err = false) (hk : m.kind = .data) (hps : m.pendStop = false) :
    ackStep mem scl sda m = mdone mem { m with sclDrv := false, ph := 0#2, seq := .hold } := by
  simp [ackStep, ackEnd, hp, he, hk, hps]

/-- The next payload byte is of the same kind as the one before it. -/
theorem ackStep_byte {b : Byte} (hp : m.ph = 3#2) (he : m.err = false) (hk : m.kind = .data)
    (hps : m.pendStop = false) (hc : m.i2cCur ≠ m.i2cEnd) (hb : memGet mem m.i2cCur.toNat = some b) :
    ackStep mem scl sda m =
      .ok
        ({ m with
            sclDrv := false
            ph := 0#2
            mdr := b
            sh := b
            bitn := 7#3
            seq := .xmit
            i2cCur := m.i2cCur + 1#32
            pendStop := decide (m.i2cCur + 1#32 = m.i2cEnd) }, false) := by
  refine (ackStep_more hp he hk hps).trans (Eq.trans (mdone_of_byte he hc hb) ?_)
  rw [← hk]

theorem ackStep_unreadable (hp : m.ph = 3#2) (he : m.err = false) (hk : m.kind = .data) (hps : m.pendStop = false)
    (hc : m.i2cCur ≠ m.i2cEnd) (hn : memGet mem m.i2cCur.toNat = none) :
    ackStep mem scl sda m = .error { code := .memRead, info := m.i2cCur.setWidth 64 } :=
  (ackStep_more hp he hk hps).trans (mdone_of_unreadable he hc hn)

/-! ## The STOP slot -/

theorem stopStep_ph0 (hp : m.ph = 0#2) : stopStep mem scl m = .ok ({ m with sdaDrv := false, ph := 1#2 }, false) := by
  simp [stopStep, hp]

theorem stopStep_ph1 (hp : m.ph = 1#2) : stopStep mem scl m = .ok ({ m with sclDrv := true, ph := 2#2 }, false) := by
  simp [stopStep, hp]

theorem stopStep_stretched (hp : m.ph = 2#2) (hscl : scl = false) : stopStep mem scl m = .ok (m, false) := by
  simp [stopStep, hp, hscl]

theorem stopStep_high (hp : m.ph = 2#2) (hscl : scl = true) :
    stopStep mem scl m = .ok ({ m with ph := 3#2 }, false) := by
  simp [stopStep, hp, hscl]

theorem stopStep_ph3 (hp : m.ph = 3#2) (hend : m.err = true ∨ m.i2cCur = m.i2cEnd) :
    stopStep mem scl m =
      .ok ({ m with sdaDrv := true, seq := .idle, ph := 0#2, i2cBusy := false, i2cRes := m.err }, true) := by
  have released : stopStep mem scl m = mdone mem { m with sdaDrv := true, seq := .idle, ph := 0#2 } := by
    simp [stopStep, hp]
  exact released.trans (mdone_of_over hend)

/-! ## The cursor under the invariant -/

/-- A slot in progress with no STOP pending has a byte left to send (10_state.md R47). -/
theorem I2cInv.more (k : I2cInv m) (hs : m.seq ≠ .idle) (hps : m.pendStop = false) : m.i2cCur ≠ m.i2cEnd := fun hc =>
  Bool.false_ne_true (hps.symm.trans ((k.last (k.busy hs)).mpr hc))

/-- The STOP slot is entered only when the transaction is over. -/
theorem I2cInv.over (k : I2cInv m) (hs : m.seq = .stop) : m.err = true ∨ m.i2cCur = m.i2cEnd :=
  (k.stop_why hs).imp_right (k.last (k.busy (by simp [hs]))).mp

end

/-! ## The address byte -/

/-- The address byte {msa[7:1], 0} (R262). -/
theorem getElem_and_0xFE (x : Byte) (j : Fin 8) : (x &&& 0xFE#8)[j] = (x[j] && j != 0) := by
  have mask : ∀ i : Fin 8, (0xFE#8)[i] = (i != 0) := by decide
  rw [← mask j]
  exact BitVec.getElem_and j.isLt

/-! ## The obligations -/

/-- Settles O41: the still states, the look at the bus, and the four phases of START. -/
theorem waitbusAndStartSlot : Obligations.WaitbusAndStartSlot := by
  intro s hh
  have start (hs : s.i2c.seq = .start) {x : I2cm} (h : startStep s.i2c = x) :
      exec .evtI2cq s = .next { s with i2c := x } := h ▸ exec_evtI2cq_of_move hh (seqStep_of_start hs)
  refine ⟨fun hs => exec_evtI2cq_of_still hh (seqStep_of_still hs), fun hs => ?_,
    fun hs hp => start hs (startStep_ph0 hp), fun hs hp => start hs (startStep_ph1 hp),
    fun hs hp => start hs (startStep_ph2 hp),
    fun hs hp => ⟨_, getElem_and_0xFE s.i2c.msa, start hs (startStep_ph3 hp)⟩⟩
  have free : (sclLevel s.inp s.i2c && sdaLevel s.inp s.i2c) = true ↔
      s.i2c.sclDrv = true ∧ s.inp.sclExt = true ∧ s.i2c.sdaDrv = true ∧ s.inp.sdaExt = true := by
    simp [sclLevel, sdaLevel, and_assoc]
  rw [exec_evtI2cq_of_move hh (seqStep_of_waitbus hs), waitbusStep]
  simp only [free]
  split <;> rfl

/-- Settles O42: phase by phase, phase 2 by the levels of the lines. -/
theorem xmitSlot : Obligations.XmitSlot := by
  intro s hh hs
  have move {x : I2cm} (h : xmitStep s.mem (sclLevel s.inp s.i2c) (sdaLevel s.inp s.i2c) s.i2c = .ok (x, false)) :
      exec .evtI2cq s = .next { s with i2c := x } := exec_evtI2cq_of_move hh ((seqStep_of_xmit hs).trans h)
  exact ⟨fun hp => move (xmitStep_ph0 hp), fun hp => move (xmitStep_ph1 hp),
    fun hp hscl => move (xmitStep_stretched hp hscl),
    fun hp hscl hb hsda => exec_evtI2cq_of_done hh ((seqStep_of_xmit hs).trans (xmitStep_lost hp hscl hb hsda)),
    fun hp hscl hkeep => move (xmitStep_kept hp hscl hkeep), fun hp hb => move (xmitStep_last hp hb),
    fun hp hb => move (xmitStep_next hp hb)⟩

/-- Settles O43: phase by phase, phase 2 by the levels of the lines and phase 3 by what is left to send. -/
theorem ackSlot : Obligations.AckSlot := by
  intro s k hh hs
  have more (hps : s.i2c.pendStop = false) : s.i2c.i2cCur ≠ s.i2c.i2cEnd := k.i2c.more (by simp [hs]) hps
  have move {x : I2cm} (h : ackStep s.mem (sclLevel s.inp s.i2c) (sdaLevel s.inp s.i2c) s.i2c = .ok (x, false)) :
      exec .evtI2cq s = .next { s with i2c := x } := exec_evtI2cq_of_move hh ((seqStep_of_ack hs).trans h)
  exact ⟨fun hp => move (ackStep_ph0 hp), fun hp => move (ackStep_ph1 hp),
    fun hp hscl => move (ackStep_stretched hp hscl), fun hp hscl hsda => move (ackStep_acked hp hscl hsda),
    fun hp hscl hsda hk => move (ackStep_nacked_addr hp hscl hsda hk),
    fun hp hscl hsda hk => move (ackStep_nacked_data hp hscl hsda hk), fun hp he => move (ackStep_err hp he),
    fun hp he hk => move (ackStep_addr hp he hk), fun hp he hk hps => move (ackStep_last hp he hk hps),
    fun b hp he hk hps hb => move (ackStep_byte hp he hk hps (more hps) hb),
    fun hp he hk hps hn =>
      evtI2cq_faults hh ((seqStep_of_ack hs).trans (ackStep_unreadable hp he hk hps (more hps) hn))⟩

/-- Settles O44: phase by phase; the transaction is over when the slot ends. -/
theorem stopSlot : Obligations.StopSlot := by
  intro s k hh hs
  have move {x : I2cm} (h : stopStep s.mem (sclLevel s.inp s.i2c) s.i2c = .ok (x, false)) :
      exec .evtI2cq s = .next { s with i2c := x } := exec_evtI2cq_of_move hh ((seqStep_of_stop hs).trans h)
  exact ⟨fun hp => move (stopStep_ph0 hp), fun hp => move (stopStep_ph1 hp),
    fun hp hscl => move (stopStep_stretched hp hscl), fun hp hscl => move (stopStep_high hp hscl),
    fun hp => exec_evtI2cq_of_done hh ((seqStep_of_stop hs).trans (stopStep_ph3 hp (k.i2c.over hs)))⟩

end Sys2Proof.Machine
end

section
/-! A transaction without payload (43_i2c.md R235): where its empty buffer stands decides nothing that happens later.
The two runs of R235 are one run that starts with an empty buffer at two places, and no instruction reads the place. -/

namespace Sys2Proof.Machine

/-- The master with the empty buffer at `a`: the cursor stands at its end. -/
def I2cm.emptyAt (m : I2cm) (a : Addr) : I2cm := { m with i2cCur := a, i2cEnd := a }

/-- The state with the master's buffer empty at `a`. -/
def State.emptyAt (s : State) (a : Addr) : State := s.setI2c (s.i2c.emptyAt a)

@[simp] theorem State.emptyAt_hof (s : State) (a : Addr) : (s.emptyAt a).hof = s.hof := rfl
@[simp] theorem State.emptyAt_tx (s : State) (a : Addr) : (s.emptyAt a).tx = s.tx := rfl
@[simp] theorem State.emptyAt_rx (s : State) (a : Addr) : (s.emptyAt a).rx = s.rx := rfl
@[simp] theorem State.emptyAt_inp (s : State) (a : Addr) : (s.emptyAt a).inp = s.inp := rfl
@[simp] theorem State.emptyAt_cfg (s : State) (a : Addr) : (s.emptyAt a).cfg = s.cfg := rfl
@[simp] theorem State.emptyAt_mem (s : State) (a : Addr) : (s.emptyAt a).mem = s.mem := rfl

/-- A state that the place of an empty buffer leads to shows the place in the buffer only, or no more at all: after
RESET or the next start command. -/
def PlaceBlind (f : Addr → State) : Prop := (∃ t : State, ∀ a, f a = t.emptyAt a) ∨ ∃ t, ∀ a, f a = t

/-! ## The sequencer -/

/-- A step of the sequencer faults at no place of an empty buffer, and does the same at each. -/
def StepBlind (step : I2cm → Except FaultRecord (I2cm × Bool)) (m : I2cm) : Prop :=
  ∃ (x : I2cm) (done : Bool), ∀ a, step (m.emptyAt a) = .ok (x.emptyAt a, done)

section
variable (mem : Memory) (scl sda : Bool) (m : I2cm)

/-- With an empty buffer MDONE completes the transaction and reads nothing (R250). -/
theorem mdone_blind : StepBlind (mdone mem) m :=
  ⟨{ m with i2cBusy := false, i2cRes := m.err }, true, fun _ => mdone_of_over (.inr rfl)⟩

theorem waitbusStep_emptyAt (a : Addr) : waitbusStep scl sda (m.emptyAt a) = (waitbusStep scl sda m).emptyAt a := by
  unfold waitbusStep
  split <;> rfl

theorem startStep_emptyAt (a : Addr) : startStep (m.emptyAt a) = (startStep m).emptyAt a := by
  obtain hp | hp | hp | hp := phase_cases m.ph
  · rw [startStep_ph0 hp]
    exact startStep_ph0 hp
  · rw [startStep_ph1 hp]
    exact startStep_ph1 hp
  · rw [startStep_ph2 hp]
    exact startStep_ph2 hp
  · rw [startStep_ph3 hp]
    exact startStep_ph3 hp

theorem xmitStep_blind : StepBlind (xmitStep mem scl sda) m := by
  obtain hp | hp | hp | hp := phase_cases m.ph
  · exact ⟨{ m with sdaDrv := slotBit m, ph := 1#2 }, false, fun _ => xmitStep_ph0 hp⟩
  · exact ⟨{ m with sclDrv := true, ph := 2#2 }, false, fun _ => xmitStep_ph1 hp⟩
  · cases hscl : scl with
    | false => exact ⟨m, false, fun _ => xmitStep_stretched hp rfl⟩
    | true =>
      by_cases hkeep : slotBit m = false ∨ sda = true
      · exact ⟨{ m with ph := 3#2 }, false, fun _ => xmitStep_kept hp rfl hkeep⟩
      · obtain ⟨hb, hsda⟩ : slotBit m = true ∧ sda = false := by simpa using hkeep
        exact ⟨{ arbitrationLost m with i2cBusy := false, i2cRes := true }, true, fun _ => xmitStep_lost hp rfl hb hsda⟩
  · by_cases hb : m.bitn = 0#3
    · exact ⟨{ m with sclDrv := false, ph := 0#2, seq := .ack }, false, fun _ => xmitStep_last hp hb⟩
    · exact ⟨{ m with sclDrv := false, ph := 0#2, bitn := m.bitn - 1#3 }, false, fun _ => xmitStep_next hp hb⟩

theorem ackStep_blind : StepBlind (ackStep mem scl sda) m := by
  obtain hp | hp | hp | hp := phase_cases m.ph
  · exact ⟨{ m with sdaDrv := true, ph := 1#2 }, false, fun _ => ackStep_ph0 hp⟩
  · exact ⟨{ m with sclDrv := true, ph := 2#2 }, false, fun _ => ackStep_ph1 hp⟩
  · cases hscl : scl with
    | false => exact ⟨m, false, fun _ => ackStep_stretched hp rfl⟩
    | true =>
      cases hsda : sda with
      | false => exact ⟨{ m with ph := 3#2 }, false, fun _ => ackStep_acked hp rfl rfl⟩
      | true =>
        cases hk : m.kind with
        | addr =>
          exact ⟨{ m with err := true, adrack := true, ph := 3#2 }, false, fun _ => ackStep_nacked_addr hp rfl rfl hk⟩
        | data =>
          exact ⟨{ m with err := true, datack := true, ph := 3#2 }, false, fun _ => ackStep_nacked_data hp rfl rfl hk⟩
  · cases he : m.err with
    | true => exact ⟨{ m with sclDrv := false, ph := 0#2, seq := .stop }, false, fun _ => ackStep_err hp he⟩
    | false =>
      cases hk : m.kind with
      | addr =>
        exact ⟨{ m with sclDrv := false, ph := 0#2, sh := m.mdr, kind := .data, bitn := 7#3, seq := .xmit }, false,
          fun _ => ackStep_addr hp he hk⟩
      | data =>
        cases hps : m.pendStop with
        | true => exact ⟨{ m with sclDrv := false, ph := 0#2, seq := .stop }, false, fun _ => ackStep_last hp he hk hps⟩
        | false =>
          obtain ⟨x, done, h⟩ := mdone_blind mem { m with sclDrv := false, ph := 0#2, seq := .hold }
          exact ⟨x, done, fun a => Eq.trans (ackStep_more hp he hk hps) (h a)⟩

theorem stopStep_blind : StepBlind (stopStep mem scl) m := by
  obtain hp | hp | hp | hp := phase_cases m.ph
  · exact ⟨{ m with sdaDrv := false, ph := 1#2 }, false, fun _ => stopStep_ph0 hp⟩
  · exact ⟨{ m with sclDrv := true, ph := 2#2 }, false, fun _ => stopStep_ph1 hp⟩
  · cases hscl : scl with
    | false => exact ⟨m, false, fun _ => stopStep_stretched hp rfl⟩
    | true => exact ⟨{ m with ph := 3#2 }, false, fun _ => stopStep_high hp rfl⟩
  · exact ⟨{ m with sdaDrv := true, seq := .idle, ph := 0#2, i2cBusy := false, i2cRes := m.err }, true,
      fun _ => stopStep_ph3 hp (.inr rfl)⟩

theorem seqStep_blind : StepBlind (seqStep mem scl sda) m := by
  cases hs : m.seq with
  | idle => exact ⟨m, false, fun _ => seqStep_of_still (.inl hs)⟩
  | hold => exact ⟨m, false, fun _ => seqStep_of_still (.inr hs)⟩
  | waitbus =>
    exact ⟨waitbusStep scl sda m, false, fun a => waitbusStep_emptyAt scl sda m a ▸ seqStep_of_waitbus hs⟩
  | start => exact ⟨startStep m, false, fun a => startStep_emptyAt m a ▸ seqStep_of_start hs⟩
  | xmit =>
    obtain ⟨x, done, h⟩ := xmitStep_blind mem scl sda m
    exact ⟨x, done, fun a => Eq.trans (seqStep_of_xmit hs) (h a)⟩
  | ack =>
    obtain ⟨x, done, h⟩ := ackStep_blind mem scl sda m
    exact ⟨x, done, fun a => Eq.trans (seqStep_of_ack hs) (h a)⟩
  | stop =>
    obtain ⟨x, done, h⟩ := stopStep_blind mem scl m
    exact ⟨x, done, fun a => Eq.trans (seqStep_of_stop hs) (h a)⟩

end

/-! ## The handlers -/

/-- A handler's answers for the places of an empty buffer: states blind to the place, or the same fault at each. -/
def HandlerBlind (h : Addr → Except FaultRecord State) : Prop :=
  (∃ f, PlaceBlind f ∧ ∀ a, h a = .ok (f a)) ∨ ∃ e, ∀ a, h a = .error e

theorem HandlerBlind.ok (t : State) : HandlerBlind fun a => .ok (t.emptyAt a) :=
  .inl ⟨_, .inl ⟨t, fun _ => rfl⟩, fun _ => rfl⟩

/-- A handler that leaves the buffer alone. -/
theorem HandlerBlind.of_map {h : Addr → Except FaultRecord State} (r : Except FaultRecord State)
    (hr : ∀ a, h a = r.map (·.emptyAt a)) : HandlerBlind h := by
  cases r with
  | ok t => exact .inl ⟨_, .inl ⟨t, fun _ => rfl⟩, hr⟩
  | error e => exact .inr ⟨e, hr⟩

section
variable (s : State)

theorem irqEnHandler_blind (mask : Byte) : HandlerBlind fun a => irqEnHandler mask (s.emptyAt a) :=
  .of_map (irqEnHandler mask s) fun a => by
    unfold irqEnHandler
    split <;> rfl

theorem irqClear_emptyAt (mask : Byte) (a : Addr) : irqClear mask (s.emptyAt a) = (irqClear mask s).emptyAt a := by
  rw [irqClear_eq, irqClear_eq]
  rfl

theorem irqClrHandler_blind (mask : Byte) : HandlerBlind fun a => irqClrHandler mask (s.emptyAt a) :=
  .of_map (irqClrHandler mask s) fun a => by
    unfold irqClrHandler
    rw [irqClear_emptyAt]
    split <;> rfl

theorem uartTxHandler_blind (p : Addr) (n : BitVec 16) : HandlerBlind fun a => uartTxHandler p n (s.emptyAt a) := by
  cases hb : s.tx.txBusy with
  | true => exact .inr ⟨_, fun _ => uartTxHandler_of_busy hb⟩
  | false =>
    by_cases hn : n = 0#16
    · subst hn
      exact .inr ⟨_, fun _ => uartTxHandler_of_empty hb⟩
    · cases hw : bufWraps p n with
      | true => exact .inr ⟨_, fun _ => uartTxHandler_of_wraps hb hn hw⟩
      | false =>
        cases hm : memGet s.mem p.toNat with
        | none => exact .inr ⟨_, fun _ => uartTxHandler_of_unreadable hb hn hw hm⟩
        | some b =>
          exact .of_map (.ok (((s.setTx (txStart p n b s.tx)).setHof (unlatch s.hof latTxDone)).respond 0#32))
            fun _ => uartTxHandler_of_accepted hb hn hw hm

theorem tickHandler_of_parked {s : State} (hp : parked s.deb = true) : tickHandler s = .ok s := if_pos hp

theorem tickHandler_of_sampled {s : State} {d : Deb} (hp : parked s.deb = false)
    (hd : debTick s.cfg s.inp.pins s.deb = .ok d) : tickHandler s = .ok (s.setDeb d) := by
  simp [tickHandler, hp, hd]

theorem tickHandler_of_error {s : State} {f : FaultRecord} (hp : parked s.deb = false)
    (hd : debTick s.cfg s.inp.pins s.deb = .error f) : tickHandler s = .error f := by
  simp [tickHandler, hp, hd]

theorem tickHandler_blind : HandlerBlind fun a => tickHandler (s.emptyAt a) := by
  cases hp : parked s.deb with
  | true => exact .of_map (.ok s) fun _ => tickHandler_of_parked hp
  | false =>
    cases hd : debTick s.cfg s.inp.pins s.deb with
    | ok d => exact .of_map (.ok (s.setDeb d)) fun _ => tickHandler_of_sampled hp hd
    | error f => exact .inr ⟨f, fun _ => tickHandler_of_error hp hd⟩

theorem baudHandler_blind : HandlerBlind fun a => baudHandler (s.emptyAt a) :=
  .of_map (baudHandler s) fun a => by
    simp only [baudHandler, State.emptyAt_hof, State.emptyAt_tx, State.emptyAt_rx, State.emptyAt_inp,
      State.emptyAt_cfg, State.emptyAt_mem]
    cases txStep s.mem s.tx <;> rfl

theorem i2cSetsaHandler_blind (x : Byte) : HandlerBlind fun a => i2cSetsaHandler x (s.emptyAt a) := by
  cases hb : s.i2c.i2cBusy with
  | true => exact .inr ⟨_, fun _ => i2cSetsaHandler_of_busy hb⟩
  | false =>
    cases hx : x[0] with
    | true => exact .inr ⟨_, fun _ => i2cSetsaHandler_of_read hb hx⟩
    | false =>
      exact .of_map (.ok ((s.setI2c { s.i2c with msa := x }).respond 0#32)) fun _ => i2cSetsaHandler_of_write hb hx

/-- An accepted start command overwrites the buffer (R233, R234). -/
theorem i2cWriteHandler_blind (x : Byte) (p : Addr) (n : BitVec 16) :
    HandlerBlind fun a => i2cWriteHandler x p n (s.emptyAt a) := by
  cases hb : s.i2c.i2cBusy with
  | true => exact .inr ⟨_, fun _ => i2cWriteHandler_of_busy hb⟩
  | false =>
    cases hw : bufWraps p n with
    | true => exact .inr ⟨_, fun _ => i2cWriteHandler_of_wraps hb hw⟩
    | false => exact .inl ⟨_, .inr ⟨_, fun _ => rfl⟩, fun _ => i2cWriteHandler_of_accepted hb hw⟩

theorem i2cWriteOneHandler_blind (x : Byte) : HandlerBlind fun a => i2cWriteOneHandler x (s.emptyAt a) := by
  cases hb : s.i2c.i2cBusy with
  | true => exact .inr ⟨_, fun _ => i2cWriteOneHandler_of_busy hb⟩
  | false => exact .inl ⟨_, .inr ⟨_, fun _ => rfl⟩, fun _ => i2cWriteOneHandler_of_accepted hb⟩

theorem i2cqHandler_blind : HandlerBlind fun a => i2cqHandler (s.emptyAt a) := by
  obtain ⟨x, done, hx⟩ := seqStep_blind s.mem (sclLevel s.inp s.i2c) (sdaLevel s.inp s.i2c) s.i2c
  refine .of_map (.ok ((s.setI2c x).setHof (latchIf done s.hof latI2cDone))) fun a => ?_
  have step : seqStep (s.emptyAt a).mem (sclLevel (s.emptyAt a).inp (s.emptyAt a).i2c)
      (sdaLevel (s.emptyAt a).inp (s.emptyAt a).i2c) (s.emptyAt a).i2c = .ok (x.emptyAt a, done) := hx a
  rw [i2cqHandler, step]
  rfl

end

/-! ## The instructions -/

section
variable {s : State} {h : Addr → Except FaultRecord State}

theorem onCommand_blind (k : HandlerBlind h) : PlaceBlind fun a => onCommand (s.emptyAt a) (h a) := by
  cases hh : s.hof.halted with
  | true => exact .inl ⟨s.respond respHalted, fun _ => onCommand_halted _ hh⟩
  | false =>
    obtain ⟨f, hf, e⟩ | ⟨x, e⟩ := k <;> simp only [e]
    · simpa only [onCommand_ok (s := s.emptyAt _) _ hh] using hf
    · exact .inl ⟨(takeFault s x).respond respHalted, fun _ => onCommand_error _ hh⟩

/-- A stimulus that leaves `wires` while halted. -/
theorem onStimulus_blind (wires : State) (k : HandlerBlind h) :
    PlaceBlind fun a => onStimulus (s.emptyAt a) (wires.emptyAt a) (h a) := by
  cases hh : s.hof.halted with
  | true => exact .inl ⟨wires, fun _ => onStimulus_halted _ _ hh⟩
  | false =>
    obtain ⟨f, hf, e⟩ | ⟨x, e⟩ := k <;> simp only [e]
    · simpa only [onStimulus_ok (s := s.emptyAt _) _ _ hh] using hf
    · exact .inl ⟨takeFault s x, fun _ => onStimulus_error _ _ hh⟩

end

theorem runCommand_blind (c : Command) (s : State) :
    ∃ f, PlaceBlind f ∧ ∀ a, runCommand c (s.emptyAt a) = .next (f a) := by
  cases c with
  | nop => exact ⟨_, onCommand_blind (.ok (s.respond 0#32)), fun _ => rfl⟩
  | status => exact ⟨_, .inl ⟨s.respond (statusWord s), fun _ => rfl⟩, fun _ => rfl⟩
  | xstatus => exact ⟨_, .inl ⟨s.respond (xstatusWord s), fun _ => rfl⟩, fun _ => rfl⟩
  | debPeek pin => exact ⟨_, onCommand_blind (.ok (s.respond (peekWord s.deb pin.toFin))), fun _ => rfl⟩
  | irqEn mask => exact ⟨_, onCommand_blind (irqEnHandler_blind s mask), fun _ => rfl⟩
  | irqClr mask => exact ⟨_, onCommand_blind (irqClrHandler_blind s mask), fun _ => rfl⟩
  | faultInfo half => exact ⟨_, .inl ⟨s.respond (faultInfoWord s half), fun _ => rfl⟩, fun _ => rfl⟩
  | btnPop =>
    exact ⟨_, onCommand_blind (.ok ((s.setDeb { s.deb with btnq := popRest s.cfg.btnqCap s.deb.btnq }).respond
      (popResp s.deb.btnq))), fun _ => rfl⟩
  | uartTx p n => exact ⟨_, onCommand_blind (uartTxHandler_blind s p n), fun _ => rfl⟩
  | uartRxPop =>
    exact ⟨_, onCommand_blind (.ok ((s.setRx { s.rx with rxq := popRest s.cfg.rxqCap s.rx.rxq }).respond
      (popResp s.rx.rxq))), fun _ => rfl⟩
  | i2cSetsa x => exact ⟨_, onCommand_blind (i2cSetsaHandler_blind s x), fun _ => rfl⟩
  | i2cWrite x p n => exact ⟨_, onCommand_blind (i2cWriteHandler_blind s x p n), fun _ => rfl⟩
  | i2cWriteOne x => exact ⟨_, onCommand_blind (i2cWriteOneHandler_blind s x), fun _ => rfl⟩

/-- No instruction reads the place of an empty buffer. -/
theorem exec_blind (i : Instr) (s : State) : ∃ f, PlaceBlind f ∧ ∀ a, exec i (s.emptyAt a) = .next (f a) := by
  obtain ⟨c, rfl⟩ | ⟨v, rfl⟩ | rfl | rfl | ⟨b, rfl⟩ | rfl | ⟨c, d, rfl⟩ | rfl | ⟨w, rfl⟩ := command_or_stimulus i
  · simpa only [exec_toInstr] using runCommand_blind c s
  · exact ⟨_, onStimulus_blind (s.setInp { s.inp with pins := v })
      (.ok ((s.setInp { s.inp with pins := v }).setDeb (debPins s.cfg s.inp.pins v s.deb))), fun _ => rfl⟩
  · exact ⟨_, onStimulus_blind s (tickHandler_blind s), fun _ => rfl⟩
  · exact ⟨_, onStimulus_blind s (baudHandler_blind s), fun _ => rfl⟩
  · exact ⟨_, .inl ⟨s.setInp { s.inp with rxd := b }, fun _ => rfl⟩, fun a => exec_evtRxd b (s.emptyAt a)⟩
  · exact ⟨_, onStimulus_blind s (i2cqHandler_blind s), fun _ => rfl⟩
  · exact ⟨_, .inl ⟨s.setInp { s.inp with sclExt := c, sdaExt := d }, fun _ => rfl⟩,
      fun a => exec_evtBusext c d (s.emptyAt a)⟩
  · exact ⟨_, .inr ⟨resetBlock s, fun _ => rfl⟩, fun _ => rfl⟩
  · cases hw : decodeCmd64 w with
    | illegal op => exact ⟨_, onCommand_blind (.inr ⟨_, fun _ => rfl⟩), fun _ => exec_evtCmd_of_illegal hw _⟩
    | reserved op => exact ⟨_, onCommand_blind (.inr ⟨_, fun _ => rfl⟩), fun _ => exec_evtCmd_of_reserved hw _⟩
    | cmd c => simpa only [exec_evtCmd_of_cmd hw, exec_toInstr] using runCommand_blind c s

theorem PlaceBlind.after {f : Addr → State} (k : PlaceBlind f) (i : Instr) : PlaceBlind fun a => after i (f a) := by
  obtain ⟨t, ht⟩ | ⟨t, ht⟩ := k
  · obtain ⟨g, hg, e⟩ := exec_blind i t
    simpa only [Machine.after, ht, e] using hg
  · exact .inr ⟨Machine.after i t, fun a => congrArg (Machine.after i) (ht a)⟩

theorem PlaceBlind.runAll {f : Addr → State} (k : PlaceBlind f) (is : List Instr) :
    PlaceBlind fun a => runAll is (f a) := by
  induction is generalizing f with
  | nil => exact k
  | cons i is ih => exact ih (k.after i)

/-- However a run goes on from an empty buffer, its place stays in the buffer or is forgotten. -/
theorem runAll_emptyAt (is : List Instr) (s : State) :
    (∃ t : State, ∀ a, runAll is (s.emptyAt a) = t.emptyAt a) ∨ ∃ t, ∀ a, runAll is (s.emptyAt a) = t :=
  PlaceBlind.runAll (f := s.emptyAt) (.inl ⟨s, fun _ => rfl⟩) is

/-! ## The two commands -/

section
variable {s : State} (x : Byte)

theorem after_i2cWriteOne (hh : s.hof.halted = false) (hb : s.i2c.i2cBusy = false) :
    after (.i2cWriteOne x) s = (i2cStart 0#32 0#32 x .startRunStop s).emptyAt 0#32 := by
  rw [after, exec_i2cWriteOne_of_accepted hh hb]
  rfl

/-- I2C_WRITE with N = 0 arms the transaction of I2C_WRITE_ONE, its empty buffer at P (R235). -/
theorem after_i2cWrite_empty (hh : s.hof.halted = false) (hb : s.i2c.i2cBusy = false) (p : Addr) :
    after (.i2cWrite x p 0#16) s = (i2cStart 0#32 0#32 x .startRunStop s).emptyAt p := by
  have fits : bufWraps p 0#16 = false := bufWraps_eq_false_iff.mpr (Nat.le_of_lt_succ p.isLt)
  have stop : bufEnd p 0#16 = p := BitVec.add_zero p
  rw [after, exec_i2cWrite_of_accepted hh hb fits, stop]
  rfl

end

/-- Settles O40: both runs start with an empty buffer, at P and at 0, and its place shows in the cursor and its end
only, or no more at all. -/
theorem emptyWriteBehavesAsWriteOne : Obligations.EmptyWriteBehavesAsWriteOne := by
  intro s x p is hh hb
  rw [after_i2cWriteOne x hh hb, after_i2cWrite_empty x hh hb]
  obtain ⟨t, ht⟩ | ⟨t, ht⟩ := runAll_emptyAt is (i2cStart 0#32 0#32 x .startRunStop s) <;> rw [ht p, ht 0#32]
  rfl

end Sys2Proof.Machine
end

section
/-! Faults over the whole instruction set (60_exceptions.md R302 to R305): what a halted block answers, what fault entry
leaves, and what becomes of a recorded fault. -/

namespace Sys2Proof.Machine

/-! ## A halted block -/

/-- A halted block answers the status reads and refuses every other command (R302). -/
theorem runCommand_of_halted {s : State} (hh : s.hof.halted = true) (c : Command) :
    c = .status ∨ c = .xstatus ∨ (∃ half, c = .faultInfo half) ∨ runCommand c s = .next (s.respond respHalted) := by
  cases c with
  | status => exact .inl rfl
  | xstatus => exact .inr (.inl rfl)
  | faultInfo half => exact .inr (.inr (.inl ⟨half, rfl⟩))
  | _ => exact .inr (.inr (.inr (congrArg Host.Outcome.next (onCommand_halted _ hh))))

theorem decodeCmd64_eq_status_iff (w : CmdWord) : decodeCmd64 w = .cmd .status ↔ w = 0x0100000000000000#64 :=
  decodeCmd64_eq_cmd_iff_eq rfl (by decide) w

theorem decodeCmd64_eq_xstatus_iff (w : CmdWord) : decodeCmd64 w = .cmd .xstatus ↔ w = 0x0200000000000000#64 :=
  decodeCmd64_eq_cmd_iff_eq rfl (by decide) w

theorem decodeCmd64_eq_faultInfo_low_iff (w : CmdWord) :
    decodeCmd64 w = .cmd (.faultInfo 0#1) ↔ w = 0x0600000000000000#64 :=
  decodeCmd64_eq_cmd_iff_eq rfl (by decide) w

theorem decodeCmd64_eq_faultInfo_high_iff (w : CmdWord) :
    decodeCmd64 w = .cmd (.faultInfo 1#1) ↔ w = 0x0601000000000000#64 :=
  decodeCmd64_eq_cmd_iff_eq rfl (by decide) w

theorem faultInfoWord_low (s : State) : faultInfoWord s 0#1 = s.hof.faultInfo.setWidth 32 :=
  (BitVec.setWidth_eq_extractLsb' (by decide)).symm

theorem faultInfoWord_high (s : State) : faultInfoWord s 1#1 = (s.hof.faultInfo >>> 32).setWidth 32 := by
  rw [BitVec.setWidth_eq_extractLsb' (by decide)]
  rfl

/-- CMD(w) of a word that is no status read (R302). -/
theorem exec_evtCmd_of_halted_of_no_read {s : State} (hh : s.hof.halted = true) {w : CmdWord}
    (hstatus : w ≠ 0x0100000000000000#64) (hxstatus : w ≠ 0x0200000000000000#64)
    (hlow : w ≠ 0x0600000000000000#64) (hhigh : w ≠ 0x0601000000000000#64) :
    exec (.evtCmd w) s = .next (s.respond respHalted) := by
  obtain ⟨f, e⟩ | ⟨c, hc, e⟩ := exec_evtCmd_cases w s
  · rw [e, onCommand_halted _ hh]
  · rw [e]
    obtain rfl | rfl | ⟨half, rfl⟩ | h := runCommand_of_halted hh c
    · exact absurd ((decodeCmd64_eq_status_iff w).mp hc) hstatus
    · exact absurd ((decodeCmd64_eq_xstatus_iff w).mp hc) hxstatus
    · obtain rfl | rfl : half = 0#1 ∨ half = 1#1 := BitVec.eq_zero_or_eq_one half
      · exact absurd ((decodeCmd64_eq_faultInfo_low_iff w).mp hc) hlow
      · exact absurd ((decodeCmd64_eq_faultInfo_high_iff w).mp hc) hhigh
    · exact h

/-- Settles O12: RESET does not look at the gate, the decoder picks out the four status reads, and every other handler
stands behind the gate. -/
theorem haltedBlockAnswersOnlyStatusReads : Obligations.HaltedBlockAnswersOnlyStatusReads := by
  intro s hh
  refine ⟨⟨resetBlock s, rfl, rfl⟩, fun w => ⟨fun hw => ?_, fun hw => ?_, fun hw => ?_, fun hw => ?_, ?_⟩,
    fun v => ?_, fun b => exec_evtRxd b s, fun c d => exec_evtBusext c d s, ?_, ?_, ?_⟩
  · exact exec_evtCmd_of_cmd ((decodeCmd64_eq_status_iff w).mpr hw) s
  · exact exec_evtCmd_of_cmd ((decodeCmd64_eq_xstatus_iff w).mpr hw) s
  · rw [← faultInfoWord_low]
    exact exec_evtCmd_of_cmd ((decodeCmd64_eq_faultInfo_low_iff w).mpr hw) s
  · rw [← faultInfoWord_high]
    exact exec_evtCmd_of_cmd ((decodeCmd64_eq_faultInfo_high_iff w).mpr hw) s
  · exact exec_evtCmd_of_halted_of_no_read hh
  all_goals exact congrArg Host.Outcome.next (onStimulus_halted _ _ hh)

/-! ## What a handler leaves of the fault record -/

/-- From `s` to `t` no fault was recorded and none was cleared. -/
structure SameFaults (s t : State) : Prop where
  halted : t.hof.halted = s.hof.halted
  log : t.faultLog = s.faultLog

section
variable {s t : State}

theorem irqEnHandler_sameFaults {mask : Byte} (h : irqEnHandler mask s = .ok t) : SameFaults s t := by
  obtain ⟨-, rfl⟩ := irqEnHandler_ok h
  exact ⟨rfl, rfl⟩

theorem irqClrHandler_sameFaults {mask : Byte} (h : irqClrHandler mask s = .ok t) : SameFaults s t := by
  obtain ⟨-, rfl⟩ := irqClrHandler_ok h
  rw [irqClear_eq]
  exact ⟨rfl, rfl⟩

theorem uartTxHandler_sameFaults {p : Addr} {n : BitVec 16} (h : uartTxHandler p n s = .ok t) : SameFaults s t := by
  obtain ⟨-, -, -, b, -, rfl⟩ := uartTxHandler_ok h
  exact ⟨rfl, rfl⟩

theorem i2cSetsaHandler_sameFaults {msa : Byte} (h : i2cSetsaHandler msa s = .ok t) : SameFaults s t := by
  obtain ⟨-, -, rfl⟩ := i2cSetsaHandler_ok h
  exact ⟨rfl, rfl⟩

theorem i2cWriteHandler_sameFaults {ctrl : Byte} {p : Addr} {n : BitVec 16} (h : i2cWriteHandler ctrl p n s = .ok t) :
    SameFaults s t := by
  obtain ⟨-, -, rfl⟩ := i2cWriteHandler_ok h
  exact ⟨rfl, rfl⟩

theorem i2cWriteOneHandler_sameFaults {byte : Byte} (h : i2cWriteOneHandler byte s = .ok t) : SameFaults s t := by
  obtain ⟨-, rfl⟩ := i2cWriteOneHandler_ok h
  exact ⟨rfl, rfl⟩

theorem tickHandler_sameFaults (h : tickHandler s = .ok t) : SameFaults s t := by
  obtain ⟨-, rfl⟩ | ⟨-, d, -, rfl⟩ := tickHandler_ok h <;> exact ⟨rfl, rfl⟩

theorem baudHandler_sameFaults (h : baudHandler s = .ok t) : SameFaults s t := by
  obtain ⟨x, done, -, rfl⟩ := baudHandler_ok h
  exact ⟨by simp, rfl⟩

theorem i2cqHandler_sameFaults (h : i2cqHandler s = .ok t) : SameFaults s t := by
  obtain ⟨m, done, -, rfl⟩ := i2cqHandler_ok h
  exact ⟨by simp, rfl⟩

end

/-! ## What an instruction makes of the fault record -/

/-- The instructions that answer a response word, and so RESP_HALTED when they fault: the commands and CMD(w) (R303). -/
def responds (i : Instr) : Bool := i.command?.isSome || i matches .evtCmd _

theorem responds_iff {i : Instr} :
    responds i = true ↔ i.command?.isSome = true ∨ ∃ w, i = .evtCmd w := by
  cases i <;> simp [responds, Instr.command?]

/-- Fault entry of an instruction (R303). -/
def faultEntry (i : Instr) (s : State) (f : FaultRecord) : State :=
  if responds i then haltedCommand s f.code.bits f else haltedState s f.code.bits f

theorem faultEntry_of_responds {i : Instr} (h : responds i = true) (s : State) (f : FaultRecord) :
    faultEntry i s f = haltedCommand s f.code.bits f := if_pos h

theorem faultEntry_of_not_responds {i : Instr} (h : responds i = false) (s : State) (f : FaultRecord) :
    faultEntry i s f = haltedState s f.code.bits f := if_neg (Bool.eq_false_iff.mp h)

theorem faultEntry_faultLog (i : Instr) (s : State) (f : FaultRecord) :
    (faultEntry i s f).faultLog = f :: s.faultLog := by
  unfold faultEntry
  split <;> rfl

/-- What an instruction other than RESET can make of the fault record. -/
inductive FaultStep (i : Instr) (s t : State) : Prop where
  /-- the hand-off state is not written: a halted block, a status read, or a wire that moves -/
  | untouched (hof : t.hof = s.hof) (log : t.faultLog = s.faultLog)
  /-- the handler runs and raises no fault -/
  | ran (before : s.hof.halted = false) (kept : SameFaults s t)
  /-- the handler raises `f` -/
  | faulted (f : FaultRecord) (before : s.hof.halted = false) (entered : t = faultEntry i s f)

section
variable {i : Instr} {s t : State}

/-- While halted nothing of the record moves (R302, R305). -/
theorem FaultStep.frozen (k : FaultStep i s t) (hh : s.hof.halted = true) :
    t.hof = s.hof ∧ t.faultLog = s.faultLog := by
  cases k with
  | untouched hof log => exact ⟨hof, log⟩
  | ran before => simp [before] at hh
  | faulted f before => simp [before] at hh

/-- A block halts by fault entry only (R303). -/
theorem FaultStep.halting (k : FaultStep i s t) (hh : s.hof.halted = false) (ht : t.hof.halted = true) :
    ∃ f, t = faultEntry i s f := by
  cases k with
  | untouched hof => simp [hof, hh] at ht
  | ran _ kept => simp [kept.halted, hh] at ht
  | faulted f _ entered => exact ⟨f, entered⟩

/-- The history of faults only grows (R305). -/
theorem FaultStep.log_grows (k : FaultStep i s t) :
    t.faultLog = s.faultLog ∨ ∃ f, t.faultLog = f :: s.faultLog := by
  cases k with
  | untouched _ log => exact .inl log
  | ran _ kept => exact .inl kept.log
  | faulted f _ entered => exact .inr ⟨f, entered ▸ faultEntry_faultLog i s f⟩

theorem onCommand_faultStep (hi : responds i = true) {h : Except FaultRecord State}
    (hok : ∀ t, h = .ok t → SameFaults s t) : FaultStep i s (onCommand s h) := by
  obtain ⟨-, e⟩ | ⟨hh, t, ht, e⟩ | ⟨hh, f, -, e⟩ := onCommand_cases s h <;> rw [e]
  · exact .untouched rfl rfl
  · exact .ran hh (hok t ht)
  · exact .faulted f hh (faultEntry_of_responds hi s f).symm

/-- A command whose handler cannot fault. -/
theorem onCommand_ok_faultStep (hi : responds i = true) (k : SameFaults s t) : FaultStep i s (onCommand s (.ok t)) :=
  onCommand_faultStep hi fun _ ht => Except.ok.inj ht ▸ k

/-- `frozen` is what the stimulus leaves of a halted block: the state, or the state with other wires (R302). -/
theorem onStimulus_faultStep (hi : responds i = false) {frozen : State}
    (hfrozen : frozen.hof = s.hof ∧ frozen.faultLog = s.faultLog) {h : Except FaultRecord State}
    (hok : ∀ t, h = .ok t → SameFaults s t) : FaultStep i s (onStimulus s frozen h) := by
  obtain ⟨-, e⟩ | ⟨hh, t, ht, e⟩ | ⟨hh, f, -, e⟩ := onStimulus_cases s frozen h <;> rw [e]
  · obtain ⟨hof, log⟩ := hfrozen
    exact .untouched hof log
  · exact .ran hh (hok t ht)
  · exact .faulted f hh (faultEntry_of_not_responds hi s f).symm

/-- A command as itself or inside CMD(w). -/
theorem runCommand_faultStep (hi : responds i = true) {c : Command} (h : runCommand c s = .next t) :
    FaultStep i s t := by
  cases c <;> obtain rfl := Host.Outcome.next.inj h
  case nop => exact onCommand_ok_faultStep hi ⟨rfl, rfl⟩
  case status => exact .untouched rfl rfl
  case xstatus => exact .untouched rfl rfl
  case debPeek pin => exact onCommand_ok_faultStep hi ⟨rfl, rfl⟩
  case irqEn mask => exact onCommand_faultStep hi fun _ => irqEnHandler_sameFaults
  case irqClr mask => exact onCommand_faultStep hi fun _ => irqClrHandler_sameFaults
  case faultInfo half => exact .untouched rfl rfl
  case btnPop => exact onCommand_ok_faultStep hi ⟨rfl, rfl⟩
  case uartTx p n => exact onCommand_faultStep hi fun _ => uartTxHandler_sameFaults
  case uartRxPop => exact onCommand_ok_faultStep hi ⟨rfl, rfl⟩
  case i2cSetsa msa => exact onCommand_faultStep hi fun _ => i2cSetsaHandler_sameFaults
  case i2cWrite ctrl p n => exact onCommand_faultStep hi fun _ => i2cWriteHandler_sameFaults
  case i2cWriteOne byte => exact onCommand_faultStep hi fun _ => i2cWriteOneHandler_sameFaults

theorem exec_evtCmd_faultStep {w : CmdWord} (h : exec (.evtCmd w) s = .next t) : FaultStep (.evtCmd w) s t := by
  have hi : responds (.evtCmd w) = true := rfl
  obtain ⟨f, e⟩ | ⟨c, -, e⟩ := exec_evtCmd_cases w s <;> rw [e] at h
  · obtain rfl := Host.Outcome.next.inj h
    exact onCommand_faultStep hi fun _ ht => nomatch ht
  · exact runCommand_faultStep hi h

theorem responds_toInstr (c : Command) : responds c.toInstr = true := by
  cases c <;> rfl

/-- Every instruction but RESET stands behind a halt gate or leaves the hand-off state alone (R302, R303). -/
theorem exec_faultStep (h : exec i s = .next t) (hr : i ≠ .evtReset) : FaultStep i s t := by
  obtain ⟨c, rfl⟩ | ⟨v, rfl⟩ | rfl | rfl | ⟨b, rfl⟩ | rfl | ⟨c, d, rfl⟩ | rfl | ⟨w, rfl⟩ := command_or_stimulus i
  · exact runCommand_faultStep (responds_toInstr c) (exec_toInstr c s ▸ h)
  · obtain rfl := Host.Outcome.next.inj h
    apply onStimulus_faultStep
    · rfl
    · exact ⟨rfl, rfl⟩
    · exact fun t ht => Except.ok.inj ht ▸ ⟨rfl, rfl⟩
  · obtain rfl := Host.Outcome.next.inj h
    exact onStimulus_faultStep rfl ⟨rfl, rfl⟩ fun _ => tickHandler_sameFaults
  · obtain rfl := Host.Outcome.next.inj h
    exact onStimulus_faultStep rfl ⟨rfl, rfl⟩ fun _ => baudHandler_sameFaults
  · obtain rfl := Host.Outcome.next.inj (exec_evtRxd b s ▸ h)
    exact .untouched rfl rfl
  · obtain rfl := Host.Outcome.next.inj h
    exact onStimulus_faultStep rfl ⟨rfl, rfl⟩ fun _ => i2cqHandler_sameFaults
  · obtain rfl := Host.Outcome.next.inj (exec_evtBusext c d s ▸ h)
    exact .untouched rfl rfl
  · exact absurd rfl hr
  · exact exec_evtCmd_faultStep h

end

/-- Settles O13: RESET halts no block, and any other instruction halts one by fault entry only. -/
theorem faultDiscardsTheWholeStep : Obligations.FaultDiscardsTheWholeStep := by
  intro i s t hh h ht
  have hr : i ≠ .evtReset := by
    rintro rfl
    cases h
    cases ht
  obtain ⟨f, rfl⟩ := (exec_faultStep h hr).halting hh ht
  refine ⟨f, fun hc => faultEntry_of_responds (responds_iff.mpr hc) s f, fun hc hw => ?_⟩
  refine faultEntry_of_not_responds (Bool.eq_false_iff.mpr fun hi => ?_) s f
  obtain hi | ⟨w, rfl⟩ := responds_iff.mp hi
  · simp [hc] at hi
  · exact hw w rfl

/-- Settles O14: RESET writes the reset values and keeps the history, and every other instruction stands behind the halt
gate. -/
theorem onlyResetLeavesTheHaltedState : Obligations.OnlyResetLeavesTheHaltedState := by
  intro i s t h
  by_cases hr : i = .evtReset
  · subst hr
    obtain rfl := Host.Outcome.next.inj h
    exact ⟨fun _ hne => absurd rfl hne, fun _ => ⟨rfl, rfl, rfl, rfl⟩, .inl rfl⟩
  · have k := exec_faultStep h hr
    exact ⟨fun hh _ => k.frozen hh, fun he => absurd he hr, k.log_grows⟩

end Sys2Proof.Machine
end

section
/-! A quiescent block and its strobes (60_exceptions.md R318; 70_reset_and_hazards.md R344): each of the three units is
idle, and an idle unit's strobe finds nothing to do. -/

namespace Sys2Proof.Machine

section
variable {s : State}

/-- The parts of a quiescent state (R344). -/
theorem quiescent_iff : quiescent s = true ↔ s.hof.halted = false ∧ s.tx.txBusy = false ∧ s.tx.thrFull = false ∧
    s.tx.txAct = false ∧ s.i2c.i2cBusy = false ∧ s.rx.rxSt = .idle ∧ parked s.deb = true := by
  simp [quiescent, and_assoc]

/-- Nothing waits and nothing is on the line (42_uart.md R186). -/
theorem txStep_of_idle {m : Memory} {t : UartTx} (ha : t.txAct = false) (hf : t.thrFull = false) :
    txStep m t = .ok (t, false) :=
  txStep_of_shift (txShift_of_idle ha) (.inr hf)

/-- An idle receiver on an idle line sees no start edge (42_uart.md R196). -/
theorem rxStep_of_idle_line {c : Cfg} {r : UartRx} (hs : r.rxSt = .idle) :
    rxStep c true r = ({ r with rxPrev := true }, false) := by
  rw [rxStep_of_idle hs, if_neg (by simp)]

/-- A strobe of an idle transmitter that latches nothing moves the receiver only. -/
theorem exec_evtBaud16_of_idle_tx {r : UartRx} (hh : s.hof.halted = false) (ha : s.tx.txAct = false)
    (hf : s.tx.thrFull = false) (hr : rxStep s.cfg s.inp.rxd s.rx = (r, false)) :
    exec .evtBaud16 s = .next { s with rx := r } := by
  rw [exec_evtBaud16_eq, baudHandler, txStep_of_idle ha hf, hr, onStimulus_ok _ _ hh]
  rfl

end

/-- Settles O50: a parked engine, a sequencer that the invariant keeps in IDLE while not busy, and two idle UART
halves. -/
theorem quiescentBlockIgnoresStrobes : Obligations.QuiescentBlockIgnoresStrobes := by
  intro s inv hq hrxd
  obtain ⟨hh, -, hfull, hact, hbusy, hrx, hparked⟩ := quiescent_iff.mp hq
  have hseq : s.i2c.seq = .idle := inv.i2c.busy_seq.mp hbusy
  have hline : rxStep s.cfg s.inp.rxd s.rx = ({ s.rx with rxPrev := true }, false) := by
    rw [hrxd, rxStep_of_idle_line hrx]
  exact ⟨exec_evtTick_of_parked hh hparked, exec_evtI2cq_of_still hh (seqStep_of_still (.inl hseq)),
    exec_evtBaud16_of_idle_tx hh hact hfull hline⟩

end Sys2Proof.Machine
end

section
/-! RESET (70_reset_and_hazards.md R340) and what every read answers right after it (R341). -/

namespace Sys2Proof.Machine

/-- RESET stands behind no gate (R340). -/
theorem exec_evtReset (s : State) : exec .evtReset s = .next (resetBlock s) := rfl

theorem queue_reset_head : Queue.reset.head = 0#4 := rfl

theorem queue_reset_count : Queue.reset.count = 0#4 := rfl

/-- The reset counters are 0 in every lane (R340). -/
theorem deb_reset_lane (i : Fin 8) : Deb.reset.rem[i] = 0#8 ∧ Deb.reset.vote[i] = 0#8 := by
  simp [Deb.reset]

/-- Settles O47: the word of RESET, and the reset value of every unit; only `rx_prev` looks at a wire. -/
theorem resetWritesTheResetValues : Obligations.ResetWritesTheResetValues := by
  refine ⟨decodeEvt16_eq_event_iff_eq rfl, fun s => ⟨resetBlock s, exec_evtReset s, ?_⟩⟩
  exact ⟨resetBlock_hof s, rfl, deb_reset_lane, queue_reset_head, queue_reset_count, resetBlock_tx s, rfl, rfl, rfl,
    rfl, rfl, rfl, rfl, queue_reset_head, queue_reset_count, resetBlock_i2c s, resetBlock_inp s, resetBlock_cfg s,
    resetBlock_mem s⟩

/-! ## What a read finds -/

section
variable (s : State)

/-- Nothing is halted, latched or queued, so nothing is pending (40_handoff.md R114). -/
theorem irqPend_resetBlock : irqPend (resetBlock s) = 0#8 := by
  have same : irqPend (resetBlock s) = irqPend State.reset := rfl
  rw [same]
  decide

theorem irqLine_resetBlock : irqLine (resetBlock s) = false := by
  rw [irqLine, irqPend_resetBlock, BitVec.zero_and]
  rfl

/-- No field of the status word reads a wire (40_handoff.md R113). -/
theorem statusWord_resetBlock : statusWord (resetBlock s) = 0#32 := by
  have same : statusWord (resetBlock s) = statusWord State.reset := rfl
  rw [same]
  decide

/-- The sequencer is in IDLE, which is the only bit of the MCS image that is set (43_i2c.md R270). -/
theorem mcsImage_i2cm_reset : mcsImage I2cm.reset = 0x20#8 := by decide

theorem xstatusWord_resetBlock : xstatusWord (resetBlock s) = 0x20#32 := by
  rw [xstatusWord, resetBlock_i2c, mcsImage_i2cm_reset, resetBlock_hof]
  decide

theorem exec_btnPop_resetBlock : exec .btnPop (resetBlock s) = .next ((resetBlock s).respond 0#32) := by
  have empty : (resetBlock s).deb.btnq.count = 0#4 := queue_reset_count
  rw [exec_btnPop rfl, popRest_of_empty empty, popResp_of_empty empty]
  rfl

theorem exec_uartRxPop_resetBlock : exec .uartRxPop (resetBlock s) = .next ((resetBlock s).respond 0#32) := by
  have empty : (resetBlock s).rx.rxq.count = 0#4 := queue_reset_count
  rw [exec_uartRxPop rfl, popRest_of_empty empty, popResp_of_empty empty]
  rfl

end

/-- A lane that counts nothing and has no edge latched reads 0 (41_debounce.md R152). -/
theorem peekWord_of_clear {d : Deb} {i : Fin 8} (hrem : d.rem[i] = 0#8) (hvote : d.vote[i] = 0#8)
    (hpend : d.edgePend[i] = false) : peekWord d i = 0#32 := by
  have hset : (debSet d)[i] = false := by rw [getElem_debSet_fin, hrem]; rfl
  rw [peekWord, hrem, hvote, hpend, hset]
  decide

theorem peekWord_deb_reset (i : Fin 8) : peekWord Deb.reset i = 0#32 := by
  obtain ⟨hrem, hvote⟩ := deb_reset_lane i
  exact peekWord_of_clear hrem hvote (BitVec.getElem_zero i.isLt)

/-- Settles O48: a read answers from the reset values alone, and an empty queue stays as it is. -/
theorem readsAfterReset : Obligations.ReadsAfterReset := by
  refine fun s => ⟨resetBlock s, exec_evtReset s, ?_, ?_, fun half => ?_, exec_btnPop_resetBlock s,
    exec_uartRxPop_resetBlock s, fun pin => ?_, irqLine_resetBlock s, rfl, rfl, rfl⟩
  · rw [← statusWord_resetBlock s]
    rfl
  · rw [← xstatusWord_resetBlock s]
    rfl
  · have hclear : (resetBlock s).hof.faultInfo = 0#64 := rfl
    rw [← faultInfoWord_of_clear hclear half]
    rfl
  · rw [exec_debPeek rfl, resetBlock_deb, peekWord_deb_reset]
    rfl

end Sys2Proof.Machine
end
